-- ==== Sys2Proof/Word.lean ====
section
/-! DEFINITION. The machine's words and indices (00_scope.md R5, R6, R9): bytes, 16-bit words, and the
sixteen-element index sets of the register file and the keypad. -/

namespace Sys2Proof

/-- A register's or a memory cell's contents, 8 bits (R5, R54). -/
abbrev Byte := BitVec 8

/-- An instruction word, a program-counter, index-register or stack value, 16 bits (R5, R80). -/
abbrev Word16 := BitVec 16

/-- A register index: a nibble that names one of V0 to VF (R9, R21). -/
abbrev Reg := Fin 16

/-- A key number, K0 to KF (R6). -/
abbrev Key := Fin 16

/-- VF, general register 15, also the flag register (R22). -/
abbrev regF : Reg := 15

end Sys2Proof
end

