-- ==== Sys2Proof/Syntax.lean ====
section
/-! DEFINITION. The 35 opcode kinds (30_encoding.md R85), one constructor per row of spec/opcode_table.json,
in the table's order, with the fields of R81. -/

namespace Sys2Proof

/-- An instruction with its decoded operand fields: `nnn` a 12-bit address, `x` and `y` register indices,
`kk` a byte, `n` a row count (R81, R83). SHR and SHL keep the y field that R83 says is decoded and never read;
SYS keeps its nnn. -/
inductive Instr where
  /-- `CLS`, 00E0. -/
  | cls
  /-- `RET`, 00EE. -/
  | ret
  /-- `SYS nnn`, 0nnn but for the words of CLS and RET. -/
  | sys (nnn : BitVec 12)
  /-- `JP nnn`, 1nnn. -/
  | jp (nnn : BitVec 12)
  /-- `JP V0, nnn`, Bnnn. -/
  | jpV0 (nnn : BitVec 12)
  /-- `CALL nnn`, 2nnn. -/
  | call (nnn : BitVec 12)
  /-- `SE Vx, kk`, 3xkk. -/
  | seVxKk (x : Reg) (kk : Byte)
  /-- `SNE Vx, kk`, 4xkk. -/
  | sneVxKk (x : Reg) (kk : Byte)
  /-- `SE Vx, Vy`, 5xy0. -/
  | seVxVy (x y : Reg)
  /-- `SNE Vx, Vy`, 9xy0. -/
  | sneVxVy (x y : Reg)
  /-- `LD Vx, kk`, 6xkk. -/
  | ldVxKk (x : Reg) (kk : Byte)
  /-- `LD Vx, Vy`, 8xy0. -/
  | ldVxVy (x y : Reg)
  /-- `ADD Vx, kk`, 7xkk. -/
  | addVxKk (x : Reg) (kk : Byte)
  /-- `OR Vx, Vy`, 8xy1. -/
  | orVxVy (x y : Reg)
  /-- `AND Vx, Vy`, 8xy2. -/
  | andVxVy (x y : Reg)
  /-- `XOR Vx, Vy`, 8xy3. -/
  | xorVxVy (x y : Reg)
  /-- `ADD Vx, Vy`, 8xy4. -/
  | addVxVy (x y : Reg)
  /-- `SUB Vx, Vy`, 8xy5. -/
  | subVxVy (x y : Reg)
  /-- `SUBN Vx, Vy`, 8xy7. -/
  | subnVxVy (x y : Reg)
  /-- `SHR Vx`, 8xy6, y ignored. -/
  | shrVx (x y : Reg)
  /-- `SHL Vx`, 8xyE, y ignored. -/
  | shlVx (x y : Reg)
  /-- `RND Vx, kk`, Cxkk. -/
  | rndVx (x : Reg) (kk : Byte)
  /-- `DRW Vx, Vy, n`, Dxyn. -/
  | drw (x y : Reg) (n : BitVec 4)
  /-- `SKP Vx`, Ex9E. -/
  | skpVx (x : Reg)
  /-- `SKNP Vx`, ExA1. -/
  | sknpVx (x : Reg)
  /-- `LD Vx, DT`, Fx07. -/
  | ldVxDt (x : Reg)
  /-- `LD Vx, K`, Fx0A. -/
  | ldVxK (x : Reg)
  /-- `LD DT, Vx`, Fx15. -/
  | ldDtVx (x : Reg)
  /-- `LD ST, Vx`, Fx18. -/
  | ldStVx (x : Reg)
  /-- `LD I, nnn`, Annn. -/
  | ldI (nnn : BitVec 12)
  /-- `ADD I, Vx`, Fx1E. -/
  | addIVx (x : Reg)
  /-- `LD F, Vx`, Fx29. -/
  | ldFVx (x : Reg)
  /-- `LD B, Vx`, Fx33. -/
  | ldBVx (x : Reg)
  /-- `LD [I], Vx`, Fx55. -/
  | ldIVx (x : Reg)
  /-- `LD Vx, [I]`, Fx65. -/
  | ldVxI (x : Reg)
  deriving DecidableEq, Repr

end Sys2Proof
end

