-- ==== Sys2Proof/WellFormed.lean ====
section
/-! DEFINITION. Which instruction terms stand for a word (30_encoding.md R84, R88). Every field has exactly the
width of its place in the word, so the one check left is SYS's exclusion of the words of CLS and RET. -/

namespace Sys2Proof

/-- SYS matches every word 0x0000 to 0x0FFF other than 0x00E0 and 0x00EE (R84, R88); every other term is
well formed. -/
def Instr.wellFormed : Instr → Bool
  | .sys nnn => nnn != 0x0E0#12 && nnn != 0x0EE#12
  | .cls | .ret | .jp _ | .jpV0 _ | .call _ | .seVxKk _ _ | .sneVxKk _ _ | .seVxVy _ _ | .sneVxVy _ _
  | .ldVxKk _ _ | .ldVxVy _ _ | .addVxKk _ _ | .orVxVy _ _ | .andVxVy _ _ | .xorVxVy _ _ | .addVxVy _ _
  | .subVxVy _ _ | .subnVxVy _ _ | .shrVx _ _ | .shlVx _ _ | .rndVx _ _ | .drw _ _ _ | .skpVx _ | .sknpVx _
  | .ldVxDt _ | .ldVxK _ | .ldDtVx _ | .ldStVx _ | .ldI _ | .addIVx _ | .ldFVx _ | .ldBVx _ | .ldIVx _
  | .ldVxI _ => true

end Sys2Proof
end

