-- ==== Sys2Proof/Decode.lean ====
section
/-! DEFINITION. The instruction encoding (30_encoding.md): the fields of a word (R81), the decoder (R84), the
bytes of a word (R57), the encoder, and the opcode map of R85 as data. -/

namespace Sys2Proof

/-! ### Fields of a word (R81) -/

/-- A 4-bit field as a register index (R9). -/
def regOfBits (b : BitVec 4) : Reg := ⟨b.toNat, b.isLt⟩

/-- A register index as a 4-bit field (R9). -/
def bitsOfReg (r : Reg) : BitVec 4 := BitVec.ofNat 4 r.val

/-- `op = w[15:12]` (R81). -/
def opField (w : Word16) : BitVec 4 := w.extractLsb' 12 4

/-- `nnn = w[11:0]` (R81). -/
def nnnField (w : Word16) : BitVec 12 := w.extractLsb' 0 12

/-- `x = w[11:8]` (R81). -/
def xField (w : Word16) : Reg := regOfBits (w.extractLsb' 8 4)

/-- `y = w[7:4]` (R81). -/
def yField (w : Word16) : Reg := regOfBits (w.extractLsb' 4 4)

/-- `n = w[3:0]`, also the function field fn4 of the 5, 8 and 9 groups (R81). -/
def nField (w : Word16) : BitVec 4 := w.extractLsb' 0 4

/-- `kk = w[7:0]`, also the function field fn8 of the E and F groups (R81). -/
def kkField (w : Word16) : Byte := w.extractLsb' 0 8

/-! ### The decoder -/

/-- The 8 group, by fn4 (R85 rows 12 and 14 to 21). -/
def decodeGroup8 (w : Word16) : Option Instr :=
  match (nField w).toNat with
  | 0x0 => some (.ldVxVy (xField w) (yField w))
  | 0x1 => some (.orVxVy (xField w) (yField w))
  | 0x2 => some (.andVxVy (xField w) (yField w))
  | 0x3 => some (.xorVxVy (xField w) (yField w))
  | 0x4 => some (.addVxVy (xField w) (yField w))
  | 0x5 => some (.subVxVy (xField w) (yField w))
  | 0x6 => some (.shrVx (xField w) (yField w))
  | 0x7 => some (.subnVxVy (xField w) (yField w))
  | 0xE => some (.shlVx (xField w) (yField w))
  | _ => none

/-- The E group, by fn8 (R85 rows 24 and 25). -/
def decodeGroupE (w : Word16) : Option Instr :=
  if kkField w = 0x9E#8 then some (.skpVx (xField w))
  else if kkField w = 0xA1#8 then some (.sknpVx (xField w))
  else none

/-- The F group, by fn8 (R85 rows 26 to 29 and 31 to 35). -/
def decodeGroupF (w : Word16) : Option Instr :=
  if kkField w = 0x07#8 then some (.ldVxDt (xField w))
  else if kkField w = 0x0A#8 then some (.ldVxK (xField w))
  else if kkField w = 0x15#8 then some (.ldDtVx (xField w))
  else if kkField w = 0x18#8 then some (.ldStVx (xField w))
  else if kkField w = 0x1E#8 then some (.addIVx (xField w))
  else if kkField w = 0x29#8 then some (.ldFVx (xField w))
  else if kkField w = 0x33#8 then some (.ldBVx (xField w))
  else if kkField w = 0x55#8 then some (.ldIVx (xField w))
  else if kkField w = 0x65#8 then some (.ldVxI (xField w))
  else none

/-- The rows of R85 by op; the 0 group here is SYS, what is left of it once CLS and RET are tested (R84). -/
def decodeByOp (w : Word16) : Option Instr :=
  match (opField w).toNat with
  | 0x0 => some (.sys (nnnField w))
  | 0x1 => some (.jp (nnnField w))
  | 0x2 => some (.call (nnnField w))
  | 0x3 => some (.seVxKk (xField w) (kkField w))
  | 0x4 => some (.sneVxKk (xField w) (kkField w))
  | 0x5 => if nField w = 0x0#4 then some (.seVxVy (xField w) (yField w)) else none
  | 0x6 => some (.ldVxKk (xField w) (kkField w))
  | 0x7 => some (.addVxKk (xField w) (kkField w))
  | 0x8 => decodeGroup8 w
  | 0x9 => if nField w = 0x0#4 then some (.sneVxVy (xField w) (yField w)) else none
  | 0xA => some (.ldI (nnnField w))
  | 0xB => some (.jpV0 (nnnField w))
  | 0xC => some (.rndVx (xField w) (kkField w))
  | 0xD => some (.drw (xField w) (yField w) (nField w))
  | 0xE => decodeGroupE w
  | 0xF => decodeGroupF w
  | _ => none

/-- `Decode(w)` (R84): CLS and RET by their exact words first, then SYS for the rest of 0x0xxx, then the one
row of R85 whose fixed bits the word has; `none` for the words of R87. -/
def decode (w : Word16) : Option Instr :=
  if w = 0x00E0#16 then some .cls
  else if w = 0x00EE#16 then some .ret
  else decodeByOp w

/-! ### Words as bytes (R56, R57) -/

/-- Why a byte sequence is no instruction: fewer than two bytes, or a word that matches no row (R87). -/
inductive DecodeError where
  | truncated (available : Nat)
  | noRow (w : Word16)
  deriving DecidableEq, Repr

/-- The word of two bytes, the high byte at the lower address (R56). -/
def wordOfBytes (hi lo : Byte) : Word16 := hi ++ lo

/-- The bytes of a word in address order: the high byte first (R57). -/
def bytesOfWord (w : Word16) : List Byte := [w.extractLsb' 8 8, w.extractLsb' 0 8]

/-- The first instruction of a byte sequence and the bytes after it, or the reason there is none. Every
instruction is exactly two bytes (R80). -/
def decodeBytes : List Byte → Except DecodeError (Instr × List Byte)
  | hi :: lo :: rest =>
    match decode (wordOfBytes hi lo) with
    | some i => .ok (i, rest)
    | none => .error (.noRow (wordOfBytes hi lo))
  | [_] => .error (.truncated 1)
  | [] => .error (.truncated 0)

/-- The host's question: what the decoder reads from the instruction whose table bits are `w`. The one word is
laid out as memory holds it, high byte first; bits above `nbits` are 0. -/
def decodeTableWord (nbits w : Nat) : Option Instr :=
  match decodeBytes (bytesOfWord (BitVec.ofNat 16 (w % 2 ^ nbits))) with
  | .ok (i, _) => some i
  | .error _ => none

/-! ### The encoder -/

/-- Format NNN (R82): op, nnn. -/
def wordNnn (op : BitVec 4) (nnn : BitVec 12) : Word16 := op ++ nnn

/-- Formats XKK and XFF (R82): op, x, then kk or fn8. -/
def wordXkk (op : BitVec 4) (x : Reg) (kk : Byte) : Word16 := op ++ (bitsOfReg x ++ kk : BitVec 12)

/-- Formats XYF and XYN (R82): op, x, y, then fn4 or n. -/
def wordXyn (op : BitVec 4) (x y : Reg) (n : BitVec 4) : Word16 :=
  op ++ (bitsOfReg x ++ (bitsOfReg y ++ n : Byte) : BitVec 12)

/-- The word of an instruction (R82, R85). The fields of the term go to the places the decoder reads them
from; an assembler of `SHR Vx` and `SHL Vx` gives y = 0 (R91). -/
def encode : Instr → Word16
  | .cls => 0x00E0#16
  | .ret => 0x00EE#16
  | .sys nnn => wordNnn 0x0 nnn
  | .jp nnn => wordNnn 0x1 nnn
  | .jpV0 nnn => wordNnn 0xB nnn
  | .call nnn => wordNnn 0x2 nnn
  | .seVxKk x kk => wordXkk 0x3 x kk
  | .sneVxKk x kk => wordXkk 0x4 x kk
  | .seVxVy x y => wordXyn 0x5 x y 0x0
  | .sneVxVy x y => wordXyn 0x9 x y 0x0
  | .ldVxKk x kk => wordXkk 0x6 x kk
  | .ldVxVy x y => wordXyn 0x8 x y 0x0
  | .addVxKk x kk => wordXkk 0x7 x kk
  | .orVxVy x y => wordXyn 0x8 x y 0x1
  | .andVxVy x y => wordXyn 0x8 x y 0x2
  | .xorVxVy x y => wordXyn 0x8 x y 0x3
  | .addVxVy x y => wordXyn 0x8 x y 0x4
  | .subVxVy x y => wordXyn 0x8 x y 0x5
  | .subnVxVy x y => wordXyn 0x8 x y 0x7
  | .shrVx x y => wordXyn 0x8 x y 0x6
  | .shlVx x y => wordXyn 0x8 x y 0xE
  | .rndVx x kk => wordXkk 0xC x kk
  | .drw x y n => wordXyn 0xD x y n
  | .skpVx x => wordXkk 0xE x 0x9E
  | .sknpVx x => wordXkk 0xE x 0xA1
  | .ldVxDt x => wordXkk 0xF x 0x07
  | .ldVxK x => wordXkk 0xF x 0x0A
  | .ldDtVx x => wordXkk 0xF x 0x15
  | .ldStVx x => wordXkk 0xF x 0x18
  | .ldI nnn => wordNnn 0xA nnn
  | .addIVx x => wordXkk 0xF x 0x1E
  | .ldFVx x => wordXkk 0xF x 0x29
  | .ldBVx x => wordXkk 0xF x 0x33
  | .ldIVx x => wordXkk 0xF x 0x55
  | .ldVxI x => wordXkk 0xF x 0x65

/-! ### The opcode map of R85 as data -/

/-- A row of R85: a word matches it when its bits under `mask` are `pattern` and it is none of the words the
row excludes (R84). -/
structure OpcodeRow where
  mnemonic : String
  pattern : Word16
  mask : Word16
  exclude : List Word16
  deriving DecidableEq, Repr

/-- "an entry matches word w when `(w & mask) = pattern`", SYS's exclusion included (R84). -/
def OpcodeRow.matchesWord (r : OpcodeRow) (w : Word16) : Bool := (w &&& r.mask) == r.pattern && !r.exclude.contains w

/-- Rows 1 to 8 and 11, 13, 22, 23, 30 of R85: the rows one top nibble selects, and the 0 group. -/
def opcodeRowsByOp : List OpcodeRow :=
  [ ⟨"CLS", 0x00E0, 0xFFFF, []⟩, ⟨"RET", 0x00EE, 0xFFFF, []⟩, ⟨"SYS", 0x0000, 0xF000, [0x00E0, 0x00EE]⟩,
    ⟨"JP", 0x1000, 0xF000, []⟩, ⟨"JP_V0", 0xB000, 0xF000, []⟩, ⟨"CALL", 0x2000, 0xF000, []⟩,
    ⟨"SE_VX_KK", 0x3000, 0xF000, []⟩, ⟨"SNE_VX_KK", 0x4000, 0xF000, []⟩, ⟨"LD_VX_KK", 0x6000, 0xF000, []⟩,
    ⟨"ADD_VX_KK", 0x7000, 0xF000, []⟩, ⟨"RND_VX", 0xC000, 0xF000, []⟩, ⟨"DRW", 0xD000, 0xF000, []⟩,
    ⟨"LD_I", 0xA000, 0xF000, []⟩ ]

/-- Rows 9, 10, 12 and 14 to 21 of R85: the rows of format XYF. -/
def opcodeRowsByFn4 : List OpcodeRow :=
  [ ⟨"SE_VX_VY", 0x5000, 0xF00F, []⟩, ⟨"SNE_VX_VY", 0x9000, 0xF00F, []⟩, ⟨"LD_VX_VY", 0x8000, 0xF00F, []⟩,
    ⟨"OR_VX_VY", 0x8001, 0xF00F, []⟩, ⟨"AND_VX_VY", 0x8002, 0xF00F, []⟩, ⟨"XOR_VX_VY", 0x8003, 0xF00F, []⟩,
    ⟨"ADD_VX_VY", 0x8004, 0xF00F, []⟩, ⟨"SUB_VX_VY", 0x8005, 0xF00F, []⟩, ⟨"SUBN_VX_VY", 0x8007, 0xF00F, []⟩,
    ⟨"SHR_VX", 0x8006, 0xF00F, []⟩, ⟨"SHL_VX", 0x800E, 0xF00F, []⟩ ]

/-- Rows 24 to 29 and 31 to 35 of R85: the rows of format XFF. -/
def opcodeRowsByFn8 : List OpcodeRow :=
  [ ⟨"SKP_VX", 0xE09E, 0xF0FF, []⟩, ⟨"SKNP_VX", 0xE0A1, 0xF0FF, []⟩, ⟨"LD_VX_DT", 0xF007, 0xF0FF, []⟩,
    ⟨"LD_VX_K", 0xF00A, 0xF0FF, []⟩, ⟨"LD_DT_VX", 0xF015, 0xF0FF, []⟩, ⟨"LD_ST_VX", 0xF018, 0xF0FF, []⟩,
    ⟨"ADD_I_VX", 0xF01E, 0xF0FF, []⟩, ⟨"LD_F_VX", 0xF029, 0xF0FF, []⟩, ⟨"LD_B_VX", 0xF033, 0xF0FF, []⟩,
    ⟨"LD_I_VX", 0xF055, 0xF0FF, []⟩, ⟨"LD_VX_I", 0xF065, 0xF0FF, []⟩ ]

/-- The opcode map (R85), the rows grouped by the bits that select them. -/
def opcodeTable : List OpcodeRow := opcodeRowsByOp ++ (opcodeRowsByFn4 ++ opcodeRowsByFn8)

/-- The kind name of an instruction, as spec/opcode_table.json spells it (R85). -/
def Instr.mnemonic : Instr → String
  | .cls => "CLS"
  | .ret => "RET"
  | .sys _ => "SYS"
  | .jp _ => "JP"
  | .jpV0 _ => "JP_V0"
  | .call _ => "CALL"
  | .seVxKk _ _ => "SE_VX_KK"
  | .sneVxKk _ _ => "SNE_VX_KK"
  | .seVxVy _ _ => "SE_VX_VY"
  | .sneVxVy _ _ => "SNE_VX_VY"
  | .ldVxKk _ _ => "LD_VX_KK"
  | .ldVxVy _ _ => "LD_VX_VY"
  | .addVxKk _ _ => "ADD_VX_KK"
  | .orVxVy _ _ => "OR_VX_VY"
  | .andVxVy _ _ => "AND_VX_VY"
  | .xorVxVy _ _ => "XOR_VX_VY"
  | .addVxVy _ _ => "ADD_VX_VY"
  | .subVxVy _ _ => "SUB_VX_VY"
  | .subnVxVy _ _ => "SUBN_VX_VY"
  | .shrVx _ _ => "SHR_VX"
  | .shlVx _ _ => "SHL_VX"
  | .rndVx _ _ => "RND_VX"
  | .drw _ _ _ => "DRW"
  | .skpVx _ => "SKP_VX"
  | .sknpVx _ => "SKNP_VX"
  | .ldVxDt _ => "LD_VX_DT"
  | .ldVxK _ => "LD_VX_K"
  | .ldDtVx _ => "LD_DT_VX"
  | .ldStVx _ => "LD_ST_VX"
  | .ldI _ => "LD_I"
  | .addIVx _ => "ADD_I_VX"
  | .ldFVx _ => "LD_F_VX"
  | .ldBVx _ => "LD_B_VX"
  | .ldIVx _ => "LD_I_VX"
  | .ldVxI _ => "LD_VX_I"

/-! ### Assembler spelling (R91) -/

/-- One hexadecimal digit of a nibble. -/
def hexDigit (b : BitVec 4) : String :=
  ["0", "1", "2", "3", "4", "5", "6", "7", "8", "9", "A", "B", "C", "D", "E", "F"][b.toNat]?.getD ""

/-- A register operand, `V` and the hexadecimal digit of its index (R91). -/
def regText (r : Reg) : String := "V" ++ hexDigit (bitsOfReg r)

/-- A nibble operand, with the prefix `0x` (R91). -/
def nibbleText (n : BitVec 4) : String := "0x" ++ hexDigit n

/-- A byte operand (R91). -/
def byteText (kk : Byte) : String := nibbleText (kk.extractLsb' 4 4) ++ hexDigit (kk.extractLsb' 0 4)

/-- An address operand (R91). -/
def addrText (nnn : BitVec 12) : String :=
  nibbleText (nnn.extractLsb' 8 4) ++ hexDigit (nnn.extractLsb' 4 4) ++ hexDigit (nnn.extractLsb' 0 4)

/-- An instruction's operand words, in order, as the "syntax" column of R85 has them. -/
def Instr.operands : Instr → List String
  | .cls | .ret => []
  | .sys nnn | .jp nnn | .call nnn => [addrText nnn]
  | .jpV0 nnn => ["V0", addrText nnn]
  | .seVxKk x kk | .sneVxKk x kk | .ldVxKk x kk | .addVxKk x kk | .rndVx x kk => [regText x, byteText kk]
  | .seVxVy x y | .sneVxVy x y | .ldVxVy x y | .orVxVy x y | .andVxVy x y | .xorVxVy x y | .addVxVy x y
  | .subVxVy x y | .subnVxVy x y => [regText x, regText y]
  | .shrVx x _ | .shlVx x _ | .skpVx x | .sknpVx x => [regText x]
  | .drw x y n => [regText x, regText y, nibbleText n]
  | .ldVxDt x => [regText x, "DT"]
  | .ldVxK x => [regText x, "K"]
  | .ldDtVx x => ["DT", regText x]
  | .ldStVx x => ["ST", regText x]
  | .ldI nnn => ["I", addrText nnn]
  | .addIVx x => ["I", regText x]
  | .ldFVx x => ["F", regText x]
  | .ldBVx x => ["B", regText x]
  | .ldIVx x => ["[I]", regText x]
  | .ldVxI x => [regText x, "[I]"]

/-- The word an instruction's line starts with in the "syntax" column of R85. -/
def Instr.operation : Instr → String
  | .cls => "CLS"
  | .ret => "RET"
  | .sys _ => "SYS"
  | .jp _ | .jpV0 _ => "JP"
  | .call _ => "CALL"
  | .seVxKk _ _ | .seVxVy _ _ => "SE"
  | .sneVxKk _ _ | .sneVxVy _ _ => "SNE"
  | .ldVxKk _ _ | .ldVxVy _ _ | .ldVxDt _ | .ldVxK _ | .ldDtVx _ | .ldStVx _ | .ldI _ | .ldFVx _ | .ldBVx _
  | .ldIVx _ | .ldVxI _ => "LD"
  | .addVxKk _ _ | .addVxVy _ _ | .addIVx _ => "ADD"
  | .orVxVy _ _ => "OR"
  | .andVxVy _ _ => "AND"
  | .xorVxVy _ _ => "XOR"
  | .subVxVy _ _ => "SUB"
  | .subnVxVy _ _ => "SUBN"
  | .shrVx _ _ => "SHR"
  | .shlVx _ _ => "SHL"
  | .rndVx _ _ => "RND"
  | .drw _ _ _ => "DRW"
  | .skpVx _ => "SKP"
  | .sknpVx _ => "SKNP"

/-- What an assembler makes of an instruction: `SHR Vx` and `SHL Vx` name no Vy, so their y field is 0 (R91). -/
def Instr.assembled : Instr → Instr
  | .shrVx x _ => .shrVx x 0
  | .shlVx x _ => .shlVx x 0
  | i => i

/-- The word an assembler emits (R91). -/
def assemble (i : Instr) : Word16 := encode i.assembled

end Sys2Proof
end

