-- ==== Sys2Proof/Config.lean ====
section
/-! DEFINITION. The implementation parameters of 00_scope.md R8, the moves of the environment (60_exceptions.md R273),
and the two free values: the random draw and the environment's order of moves. -/

namespace Sys2Proof

/-- The number of bytes of the address space, MEM_SIZE (R4). -/
abbrev memSize : Nat := 4096

/-- The first address of the font region, FONT_BASE (R4, R52). -/
abbrev fontBase : Nat := 0x050

/-- The first address past the font region: 16 glyphs of 5 bytes follow FONT_BASE (R4, R51). -/
abbrev fontEnd : Nat := 0x0A0

/-- The first address of the ROM region, ROM_BASE, also the reset value of pc (R4, R23). -/
abbrev romBase : Nat := 0x200

/-- The number of bytes of the ROM region, ROM_MAX (R4). -/
abbrev romMax : Nat := 3584

/-- The depth of the call stack, STACK_DEPTH (R5). -/
abbrev stackDepth : Nat := 16

/-- QUIRK_MODE (R8 (a)). Only `standard` has instruction semantics; under `maximal` the spec refuses every
execution (R258). -/
inductive QuirkMode where
  | standard
  | maximal
  deriving DecidableEq, Repr

/-- The contents of the font region, FONT_GLYPHS: 16 glyphs of 5 bytes (R8 (c), R52). -/
abbrev Font := Vector Byte 80

/-- The parameters of R8 (a) to (c). No step changes them (R304). -/
structure Config where
  /-- QUIRK_MODE. -/
  quirkMode : QuirkMode
  /-- CYCLE_CAP, `none` for no cap. -/
  cycleCap : Option Nat
  /-- FONT_GLYPHS. -/
  fontGlyphs : Font
  deriving DecidableEq, Repr

/-- The random draw of RND (R8 (d), R161): the n-th draw of a run. A FREE VALUE, log 4: it has no body, so
nothing can be proved of its value, and a theorem about it holds for every sequence of draws. -/
opaque Config.rnd : Nat → Byte

/-- The steps the environment chooses among (R13, R273). -/
inductive Machine.Move where
  /-- One CPU tick (R110). -/
  | cpuTick
  /-- One timer tick (R260). -/
  | timerTick
  /-- Key k goes down (R263). -/
  | keyDown (k : Key)
  /-- Key k goes up (R264). -/
  | keyUp (k : Key)
  /-- Stage and start a program (R302). -/
  | loadRom (bytes : List Byte)
  /-- Restart the staged program (R301). -/
  | reset
  /-- Begin tick delivery (R272). -/
  | start
  /-- End tick delivery (R272). -/
  | stop
  /-- End tick delivery for good; the audio side is outside the core (R272). -/
  | cleanup
  deriving DecidableEq, Repr, Inhabited

/-- The environment's moves, in "any order the environment chooses" (R273): the n-th move that no schedule fixes. A
FREE VALUE, log 1: it has no body, so nothing can be proved of the order, and a theorem about a run holds for every
unending order of the nine moves. -/
opaque Config.envMove : Nat → Machine.Move

end Sys2Proof
end

