-- ==== Sys2Proof/Machine/Font.lean ====
section
/-! DEFINITION. The default font (20_memory.md R53). -/

namespace Sys2Proof.Machine

/-- The conventional hexadecimal font, glyph d's five bytes from 5 d on (R53). PRESUMED, log 5: the spec marks
the bytes as general knowledge, and FONT_GLYPHS is a parameter. -/
def conventionalFont : Font :=
  #v[0xF0, 0x90, 0x90, 0x90, 0xF0,
     0x20, 0x60, 0x20, 0x20, 0x70,
     0xF0, 0x10, 0xF0, 0x80, 0xF0,
     0xF0, 0x10, 0xF0, 0x10, 0xF0,
     0x90, 0x90, 0xF0, 0x10, 0x10,
     0xF0, 0x80, 0xF0, 0x10, 0xF0,
     0xF0, 0x80, 0xF0, 0x90, 0xF0,
     0xF0, 0x10, 0x20, 0x40, 0x40,
     0xF0, 0x90, 0xF0, 0x90, 0xF0,
     0xF0, 0x90, 0xF0, 0x10, 0xF0,
     0xF0, 0x90, 0xF0, 0x90, 0x90,
     0xE0, 0x90, 0xE0, 0x90, 0xE0,
     0xF0, 0x80, 0x80, 0x80, 0xF0,
     0xE0, 0x90, 0x90, 0x90, 0xE0,
     0xF0, 0x80, 0xF0, 0x80, 0xF0,
     0xF0, 0x80, 0xF0, 0x80, 0x80]

/-- The parameters of a machine whose host gives none (R8): QUIRK_MODE = standard, the only mode with
semantics, no cycle cap, and the default font (DESIGN CHOICE, log 3; PRESUMED, log 5). -/
def defaultConfig : Config := { quirkMode := .standard, cycleCap := none, fontGlyphs := conventionalFont }

end Sys2Proof.Machine
end

