-- ==== Sys2Proof/Machine/State.lean ====
section
/-! DEFINITION. The state record of 10_state.md R20, the fault causes (R251), and the state at construction (70_reset_and_hazards.md R300). Plain data throughout. -/

namespace Sys2Proof.Machine

/-- Memory: the (address, byte) cells that differ from what an unlisted address reads as, addresses strictly
rising (R30, R50; the canonical form is `Memory.wf`, log 6). -/
abbrev Memory := List Host.Cell

/-- The display, row by row from the top, each row from the left: `fb[y][x]` is `fb(x, y)` of R32, true for on. -/
abbrev Framebuffer := Vector (Vector Bool 64) 32

/-- The fault causes of R251, numbered as there by `Fault.code`. Every one of them is TAKEN, as R253 says: the
step answers a NEXT state that holds the fault record. So no step of this model ends in the host's outcome
`fault`, and none of these constructors is safe or unsafe as a stop: each is a value of the record. -/
inductive Fault where
  /-- Code 1, by the CPU tick: the fetched word matches no row (R115). -/
  | illegalInstruction
  /-- Code 2, by the CPU tick: the fetch address is odd (R114). -/
  | misalignedFetch
  /-- Code 3, by the CPU tick: the fetch reaches past the top of memory (R114). -/
  | fetchRange
  /-- Code 4, by DRW, LD B, LD [I] and LD Vx, [I]: a data address of 4096 or more (R181, R223 to R225). -/
  | memoryRange
  /-- Code 5, by CALL on 16 stacked entries (R134). -/
  | stackOverflow
  /-- Code 6, by RET on an empty stack (R131). -/
  | stackUnderflow
  /-- Code 7, by SKP and SKNP when Vx > 15 (R200, R201). -/
  | keyIndex
  deriving DecidableEq, Repr

/-- The reasons the model gives an instruction no meaning. No instruction of this model answers one: the
refusal of R258 is a next state with the mark `refused`. -/
inductive Refusal where
  /-- Raised by a dispatch arm of an instruction that has no meaning yet. Safe: the run stops. No arm is left. -/
  | notModelled (mnemonic : String)
  deriving DecidableEq, Repr

/-- The fault record (R35, R252): cause, address of the faulting instruction or fetch, the instruction word
where one was fetched, and the offending byte address of a memory or fetch range fault. -/
structure FaultRecord where
  cause : Fault
  pc : Word16
  word : Option Word16
  addr : Option Nat
  deriving DecidableEq, Repr

/-- The key wait `future` (R34): inactive, or pending on the register that receives the key number. -/
inductive KeyWait where
  | inactive
  | pending (t : Reg)
  deriving DecidableEq, Repr

/-- The whole state: the fields of R20, then the model's own four. -/
structure State where
  /-- V0 to VF (R21). -/
  v : Vector Byte 16
  /-- The program counter (R23). -/
  pc : Word16
  /-- The index register I (R24). -/
  i : Word16
  /-- The delay timer DT (R25). -/
  dt : Byte
  /-- The sound timer ST (R26). -/
  st : Byte
  /-- The call stack, bottom first, the top at the end: "push(v) appends v as the new top" (R27). -/
  stack : List Word16
  /-- The CPU's run flag (R28). -/
  running : Bool
  /-- cycle_count (R29). -/
  cycleCount : Nat
  /-- mem[0..4095] (R30). -/
  mem : Memory
  /-- staged_rom (R31). -/
  stagedRom : Option (List Byte)
  /-- The framebuffer (R32). -/
  fb : Framebuffer
  /-- Which keys are down (R33). -/
  key : Vector Bool 16
  /-- The previous-state snapshot of the keys (R33). -/
  prev : Vector Bool 16
  /-- The pending key wait (R34). -/
  future : KeyWait
  /-- The fault record (R35). -/
  fault : Option FaultRecord
  /-- sched_active: whether ticks are delivered (R36). -/
  schedActive : Bool
  /-- The refusal mark (R37). -/
  refused : Bool
  /-- The model's own: the environment's next moves, the first one first, as far as they are fixed; after them come
  the free moves `Config.envMove` (R273, log 1). -/
  schedule : List Move
  /-- The model's own: how many free moves were taken (R273, log 1). -/
  moveCount : Nat
  /-- The model's own: how many random draws were taken (R161, log 4). -/
  rndCount : Nat
  /-- The model's own: the parameters of R8, which no step changes (R304, log 3). -/
  cfg : Config
  deriving DecidableEq, Repr

/-- The display with every cell off (R39, R180). -/
abbrev Framebuffer.off : Framebuffer := Vector.replicate 32 (Vector.replicate 64 false)

/-- The state at construction (R300, R39). Nothing is listed in memory: an unlisted address reads as the image of
R303 for no ROM. The four last fields are the model's own (DESIGN CHOICE, log 1, log 3, log 4). -/
def State.reset : State where
  v := Vector.replicate 16 0
  pc := 0x200
  i := 0
  dt := 0
  st := 0
  stack := []
  running := false
  cycleCount := 0
  mem := []
  stagedRom := none
  fb := Framebuffer.off
  key := Vector.replicate 16 false
  prev := Vector.replicate 16 false
  future := .inactive
  fault := none
  schedActive := false
  refused := false
  schedule := []
  moveCount := 0
  rndCount := 0
  cfg := defaultConfig

end Sys2Proof.Machine
end

