-- ==== Sys2Proof/Machine/Ops.lean ====
section
/-! DEFINITION. The named operations over memory, registers, stack, display and program counter that every
meaning is built from, and taking a fault, once for the whole machine (20_memory.md, 10_state.md,
60_exceptions.md). -/

namespace Sys2Proof.Machine

/-! ### Memory as a canonical list of cells (log 6) -/

/-- What an unlisted address reads as: the reset contents with no ROM, the font in its region and zero elsewhere
(R51, R303). -/
def Memory.unlisted (g : Font) (a : Nat) : Byte :=
  if h : fontBase ≤ a ∧ a < fontEnd then g[a - fontBase]'(by simp only [fontBase, fontEnd] at h ⊢; omega) else 0

/-- The listed cell of an address, if any. -/
def Memory.lookup : Memory → Nat → Option Byte
  | [], _ => none
  | (k, b) :: m, a => if k = a then some b else Memory.lookup m a

/-- List a cell at its place, in the stead of one with the same address. -/
def Memory.put : Memory → Nat → Byte → Memory
  | [], a, b => [(a, b)]
  | (k, c) :: m, a, b =>
    if a < k then (a, b) :: (k, c) :: m
    else if a = k then (a, b) :: m
    else (k, c) :: Memory.put m a b

/-- Take an address's cells off the list. -/
def Memory.erase : Memory → Nat → Memory
  | [], _ => []
  | (k, c) :: m, a => if k = a then Memory.erase m a else (k, c) :: Memory.erase m a

/-- `mem[a]` (R30, R63). -/
def Memory.read (g : Font) (m : Memory) (a : Nat) : Byte := (m.lookup a).getD (Memory.unlisted g a)

/-- `mem[a] <- b` (R55). Writing what an unlisted address reads as takes the cell off the list. -/
def Memory.write (g : Font) (m : Memory) (a : Nat) (b : Byte) : Memory :=
  if b = Memory.unlisted g a then m.erase a else m.put a b

/-- Every listed address is at least `lo`, and they strictly rise. -/
def Memory.risingFrom : Nat → Memory → Bool
  | _, [] => true
  | lo, (k, _) :: m => decide (lo ≤ k) && Memory.risingFrom (k + 1) m

/-- A cell inside the address space that differs from what its address reads as unlisted. -/
def Memory.cellOk (g : Font) (c : Host.Cell) : Bool := decide (c.1 < memSize) && c.2 != Memory.unlisted g c.1

/-- The canonical form: addresses strictly rising, all inside the space, none listed for nothing. -/
def Memory.wf (g : Font) (m : Memory) : Bool := Memory.risingFrom 0 m && m.all (Memory.cellOk g)

/-- The cells of a run of bytes from an address on, over a memory that lists nothing there (R303). -/
def Memory.image (g : Font) : Nat → List Byte → Memory
  | _, [] => []
  | a, b :: bs => if b = Memory.unlisted g a then Memory.image g (a + 1) bs else (a, b) :: Memory.image g (a + 1) bs

/-! ### Byte accesses of a state, with the range check of R54 and R55 -/

/-- `mem[a]` in a state, for an address already checked. -/
def State.byteAt (s : State) (a : Nat) : Byte := Memory.read s.cfg.fontGlyphs s.mem a

/-- `mem[a] <- b` in a state, for an address already checked. -/
def State.setByte (s : State) (a : Nat) (b : Byte) : State := { s with mem := Memory.write s.cfg.fontGlyphs s.mem a b }

/-- `MemRead(a, 1)` (R54): the byte, or the address that is out of range. -/
def State.memRead (s : State) (a : Nat) : Except Nat Byte := if a < memSize then .ok (s.byteAt a) else .error a

/-- `MemWrite(a, 1, b)` (R55): the state after it, or the address that is out of range. -/
def State.memWrite (s : State) (a : Nat) (b : Byte) : Except Nat State :=
  if a < memSize then .ok (s.setByte a b) else .error a

/-- `FetchWord(a)` (R56): big-endian, the high byte at `a`. -/
def State.fetchWord (s : State) (a : Nat) : Word16 := wordOfBytes (s.byteAt a) (s.byteAt (a + 1))

/-! ### Registers (R21, R22) -/

/-- `x[r]`. -/
def State.reg (s : State) (r : Reg) : Byte := s.v[r.val]

/-- `x[r] <- b`. -/
def State.setReg (s : State) (r : Reg) (b : Byte) : State := { s with v := s.v.set r.val b }

/-- `x[15] <- (if c then 1 else 0)`: the flag write, which R120 puts last. -/
def State.setFlag (s : State) (c : Bool) : State := s.setReg regF (if c then 1 else 0)

/-! ### Program counter (R23) -/

/-- The fetch advance `pc <- trunc16(pc0 + 2)` (R116). -/
def State.advance (s : State) : State := { s with pc := s.pc + 2 }

/-- The address pc0 of the instruction that is executing: pc already holds pc0 + 2 (R116, R310). -/
def State.instrAddr (s : State) : Word16 := s.pc - 2

/-- "Skip the next instruction" if the condition holds: `pc <- trunc16(pc + 2)` (R121). -/
def State.skipIf (s : State) (c : Bool) : State := if c then { s with pc := s.pc + 2 } else s

/-! ### Call stack (R27) -/

/-- `push(a)`: `a` becomes the new top. -/
def State.push (s : State) (a : Word16) : State := { s with stack := s.stack ++ [a] }

/-- The top of the stack, if there is one. -/
def State.top (s : State) : Option Word16 := s.stack.getLast?

/-- The state without the top of its stack. -/
def State.dropTop (s : State) : State := { s with stack := s.stack.dropLast }

/-! ### Taking a fault (R251 to R253), the one operation for all seven causes -/

/-- The code of a cause (R251). -/
def Fault.code : Fault → Nat
  | .illegalInstruction => 1
  | .misalignedFetch => 2
  | .fetchRange => 3
  | .memoryRange => 4
  | .stackOverflow => 5
  | .stackUnderflow => 6
  | .keyIndex => 7

/-- `raise F(info)` in the tick of the instruction at `pc0` (R253): no write of the tick stays, so pc is `pc0`
again, and the record is set. `s` is the state before any write but the fetch advance. There is no return: a
fault has no handler (R257), and only reset and load_rom clear the record (R256). -/
def State.takeFault (s : State) (pc0 : Word16) (cause : Fault) (word : Option Word16) (addr : Option Nat) : State :=
  { s with pc := pc0, fault := some { cause := cause, pc := pc0, word := word, addr := addr } }

/-- A raise of the executing instruction, whose word is `w`: the next state of R253. -/
def State.raise (s : State) (cause : Fault) (w : Word16) (addr : Option Nat) : Host.Outcome State Fault Refusal :=
  .next (s.takeFault s.instrAddr cause (some w) addr)

/-! ### Display cells (R32) -/

/-- `fb(x, y)`. -/
def Framebuffer.cell (fb : Framebuffer) (x : Fin 64) (y : Fin 32) : Bool := fb[y.val][x.val]

/-- `fb(x, y) <- b`. -/
def Framebuffer.setCell (fb : Framebuffer) (x : Fin 64) (y : Fin 32) (b : Bool) : Framebuffer :=
  fb.set y.val (fb[y.val].set x.val b)

/-! ### Keys (R33) -/

/-- The keys in ascending order, the scan order of R265. -/
def allKeys : List Key := [0, 1, 2, 3, 4, 5, 6, 7, 8, 9, 10, 11, 12, 13, 14, 15]

/-- `key(k)`. -/
def State.keyAt (s : State) (k : Key) : Bool := s.key[k.val]

/-- `prev(k)`. -/
def State.prevAt (s : State) (k : Key) : Bool := s.prev[k.val]

end Sys2Proof.Machine
end

