-- ==== Sys2Proof/Machine/Operands.lean ====
section
/-! DEFINITION. Operand forms: truncation and extension (00_scope.md R10), the one data addressing mode
(45_index_memory.md R226), the block transfers' byte runs and the register range of 10_state.md R41. -/

namespace Sys2Proof.Machine

/-- `trunc8(z) = z mod 256` of an exact integer (R10): `trunc8(3 - 5) = 254`. -/
def trunc8 (z : Int) : Byte := BitVec.ofInt 8 z

/-- `trunc16(z) = z mod 65536` of an exact integer (R10). -/
def trunc16 (z : Int) : Word16 := BitVec.ofInt 16 z

/-- `zext16(nnn)` of a 12-bit address (R10, R83). -/
def zext16 (nnn : BitVec 12) : Word16 := nnn.setWidth 16

/-- The effective address `I + r` (R59, R226): an exact natural number, never wrapped. -/
def State.dataAddr (s : State) (r : Nat) : Nat := s.i.toNat + r

/-- `MemRead` of `n` bytes from `a` on, ascending; the first address out of range if one is met (R59, R252). -/
def State.readBytes (s : State) (a : Nat) : Nat → Except Nat (List Byte)
  | 0 => .ok []
  | n + 1 =>
    match s.memRead a with
    | .error e => .error e
    | .ok b =>
      match s.readBytes (a + 1) n with
      | .error e => .error e
      | .ok bs => .ok (b :: bs)

/-- `MemWrite` of a run of bytes from `a` on, ascending; the first address out of range if one is met. The caller
drops the partial writes then, since a raise undoes the whole instruction (R253). -/
def State.writeBytes (s : State) (a : Nat) : List Byte → Except Nat State
  | [] => .ok s
  | b :: bs =>
    match s.memWrite a b with
    | .error e => .error e
    | .ok t => t.writeBytes (a + 1) bs

/-- The contents of V0 to Vt, both included, ascending (R41). -/
def State.regsTo (s : State) (t : Reg) : List Byte := (List.range (t.val + 1)).map fun r => s.reg (Fin.ofNat 16 r)

/-- Load registers from a list of bytes, ascending from register number `r` on (R41, R225). -/
def State.loadRegs (s : State) (r : Nat) : List Byte → State
  | [] => s
  | b :: bs => (s.setReg (Fin.ofNat 16 r) b).loadRegs (r + 1) bs

/-- The decimal digits of a byte: hundreds, tens, ones (R223). -/
def bcdDigits (b : Byte) : List Byte :=
  [BitVec.ofNat 8 (b.toNat / 100), BitVec.ofNat 8 (b.toNat / 10 % 10), BitVec.ofNat 8 (b.toNat % 10)]

end Sys2Proof.Machine
end

