-- ==== Sys2Proof/Machine/Devices.lean ====
section
/-! DEFINITION. The timer engines, the keypad, the key-wait poll and the read ports (60_exceptions.md R260 to R267,
10_state.md R40, 20_memory.md R68, 43_display.md R185). -/

namespace Sys2Proof.Machine

/-- Count a timer down by one, floor at zero (R260). -/
def countDown (t : Byte) : Byte := if t = 0 then 0 else t - 1

/-- The timer tick: both timers, whatever `running`, `fault` and `future` hold (R260). -/
def State.timerTick (s : State) : State := { s with dt := countDown s.dt, st := countDown s.st }

/-- `key_down(k)`: the snapshot of k, then the level (R263). -/
def State.keyDown (s : State) (k : Key) : State :=
  { s with prev := s.prev.set k.val (s.keyAt k), key := s.key.set k.val true }

/-- `key_up(k)`: the snapshot of k, then the level (R264). -/
def State.keyUp (s : State) (k : Key) : State :=
  { s with prev := s.prev.set k.val (s.keyAt k), key := s.key.set k.val false }

/-- A release edge of a key: it was down and is up (R265). -/
def State.released (s : State) (k : Key) : Bool := s.prevAt k && !s.keyAt k

/-- `key_released()`: the smallest key with a release edge (R265). -/
def State.keyReleased (s : State) : Option Key := allKeys.find? s.released

/-- `PollKeyWait(t)`: a release edge writes its key's number to Vt and ends the wait (R267). -/
def State.pollKeyWait (s : State) (t : Reg) : State :=
  match s.keyReleased with
  | some k => { s.setReg t (BitVec.ofNat 8 k.val) with future := .inactive }
  | none => s

/-- `clear_previous`: every `prev(k)` false (R118). -/
def State.clearPrevious (s : State) : State := { s with prev := Vector.replicate 16 false }

/-! ### Read ports (R13): functions of the state, without side effect -/

/-- The `tone` output: on exactly while ST is nonzero (R261). -/
def State.tone (s : State) : Bool := s.st != 0

/-- `display.snapshot()` (R185). -/
def State.snapshot (s : State) : Framebuffer := s.fb

/-- The record of `cpu_debug_view()` (R40). -/
structure DebugView where
  pc : Word16
  i : Word16
  dt : Byte
  st : Byte
  /-- The live entries from bottom to top. -/
  stack : List Word16
  registers : Vector Byte 16
  cycleCount : Nat
  fault : Option FaultRecord
  running : Bool
  future : KeyWait
  deriving DecidableEq, Repr

/-- `cpu_debug_view()` (R40). -/
def State.debugView (s : State) : DebugView :=
  { pc := s.pc, i := s.i, dt := s.dt, st := s.st, stack := s.stack, registers := s.v, cycleCount := s.cycleCount,
    fault := s.fault, running := s.running, future := s.future }

/-- `slice(lo, hi)`: the bytes lo to hi - 1, and no value for a range outside 0 to 4096 (R68). Of a reversed range
inside 0 to 4096, lo > hi, the spec says nothing: that it has no value either is the model's choice (DESIGN CHOICE,
log 10). -/
def State.memSlice (s : State) (lo hi : Nat) : Option (List Byte) :=
  if lo ≤ hi ∧ hi ≤ memSize then some ((List.range (hi - lo)).map fun k => s.byteAt (lo + k)) else none

end Sys2Proof.Machine
end

