-- ==== Sys2Proof/Machine/Flags.lean ====
section
/-! DEFINITION. The flag computations that go to VF (10_state.md R22, 42_alu.md R156 to R160), and the shared
shape of an instruction that writes a result and then VF (40_fetch_execute.md R120). -/

namespace Sys2Proof.Machine

/-- The carry of `a + b`: the unsigned sum exceeds 255 (R156). -/
def carry (a b : Byte) : Bool := decide (a.toNat + b.toNat > 255)

/-- The no-borrow flag of `a - b`: strictly `a > b` (R157, R158). Equal operands give false. -/
def noBorrow (a b : Byte) : Bool := decide (a.toNat > b.toNat)

/-- The bit a right shift by one shifts out: bit 0 (R159). -/
def shiftedOutLow (a : Byte) : Bool := a.getLsbD 0

/-- The bit a left shift by one shifts out: bit 7 (R160). -/
def shiftedOutHigh (a : Byte) : Bool := a.getLsbD 7

/-- Write a result into Vx and then the flag into VF, in that order (R120): where x = F the flag stays. Both are
computed by the caller from the operands as they were before the instruction. -/
def State.setResultAndFlag (s : State) (x : Reg) (result : Byte) (flag : Bool) : State :=
  (s.setReg x result).setFlag flag

end Sys2Proof.Machine
end

