-- ==== Sys2Proof/Machine/Alu.lean ====
section
/-! DEFINITION. Register, arithmetic, logic, shift and random instructions (42_alu.md). None raises a fault. -/

namespace Sys2Proof.Machine

/-- LD Vx, kk (R150). -/
def execLdVxKk (x : Reg) (kk : Byte) (s : State) : Host.Outcome State Fault Refusal := .next (s.setReg x kk)

/-- LD Vx, Vy (R151). -/
def execLdVxVy (x y : Reg) (s : State) : Host.Outcome State Fault Refusal := .next (s.setReg x (s.reg y))

/-- ADD Vx, kk: `trunc8(x[X] + kk)`, no flag (R152). -/
def execAddVxKk (x : Reg) (kk : Byte) (s : State) : Host.Outcome State Fault Refusal :=
  .next (s.setReg x (trunc8 (((s.reg x).toNat + kk.toNat : Nat) : Int)))

/-- OR Vx, Vy (R153). -/
def execOrVxVy (x y : Reg) (s : State) : Host.Outcome State Fault Refusal := .next (s.setReg x (s.reg x ||| s.reg y))

/-- AND Vx, Vy (R154). -/
def execAndVxVy (x y : Reg) (s : State) : Host.Outcome State Fault Refusal := .next (s.setReg x (s.reg x &&& s.reg y))

/-- XOR Vx, Vy (R155). -/
def execXorVxVy (x y : Reg) (s : State) : Host.Outcome State Fault Refusal := .next (s.setReg x (s.reg x ^^^ s.reg y))

/-- ADD Vx, Vy: `trunc8(a + b)`, then VF = carry (R156). -/
def execAddVxVy (x y : Reg) (s : State) : Host.Outcome State Fault Refusal :=
  .next (s.setResultAndFlag x (trunc8 (((s.reg x).toNat + (s.reg y).toNat : Nat) : Int)) (carry (s.reg x) (s.reg y)))

/-- SUB Vx, Vy: `trunc8(a - b)`, then VF = 1 iff a > b (R157). -/
def execSubVxVy (x y : Reg) (s : State) : Host.Outcome State Fault Refusal :=
  .next (s.setResultAndFlag x (trunc8 ((s.reg x).toNat - (s.reg y).toNat : Int)) (noBorrow (s.reg x) (s.reg y)))

/-- SUBN Vx, Vy: `trunc8(b - a)`, then VF = 1 iff b > a (R158). -/
def execSubnVxVy (x y : Reg) (s : State) : Host.Outcome State Fault Refusal :=
  .next (s.setResultAndFlag x (trunc8 ((s.reg y).toNat - (s.reg x).toNat : Int)) (noBorrow (s.reg y) (s.reg x)))

/-- SHR Vx: logical right shift by one, then VF = old bit 0; y is ignored (R159). -/
def execShrVx (x _y : Reg) (s : State) : Host.Outcome State Fault Refusal :=
  .next (s.setResultAndFlag x (s.reg x >>> 1) (shiftedOutLow (s.reg x)))

/-- SHL Vx: logical left shift by one, then VF = old bit 7; y is ignored (R160). -/
def execShlVx (x _y : Reg) (s : State) : Host.Outcome State Fault Refusal :=
  .next (s.setResultAndFlag x (s.reg x <<< 1) (shiftedOutHigh (s.reg x)))

/-- RND Vx, kk: the next draw masked by kk (R161). The draw is the free value of log 4. -/
def execRndVx (x : Reg) (kk : Byte) (s : State) : Host.Outcome State Fault Refusal :=
  .next ({ s with rndCount := s.rndCount + 1 }.setReg x (Config.rnd s.rndCount &&& kk))

end Sys2Proof.Machine
end

