-- ==== Sys2Proof/Machine/ControlFlow.lean ====
section
/-! DEFINITION. Control flow (41_control_flow.md). Every meaning of the five family files runs on the state after
the fetch advance, pc = pc0 + 2 (40_fetch_execute.md R116, R117), and answers a next state. -/

namespace Sys2Proof.Machine

/-- SYS nnn: nothing (R130). -/
def execSys (_nnn : BitVec 12) (s : State) : Host.Outcome State Fault Refusal := .next s

/-- RET: pop the stack into pc; StackUnderflow on an empty stack (R131). -/
def execRet (s : State) : Host.Outcome State Fault Refusal :=
  match s.top with
  | none => s.raise .stackUnderflow (encode .ret) none
  | some a => .next { s.dropTop with pc := a }

/-- JP nnn (R132). -/
def execJp (nnn : BitVec 12) (s : State) : Host.Outcome State Fault Refusal := .next { s with pc := zext16 nnn }

/-- JP V0, nnn: `trunc16(zext16(nnn) + x[0])` (R133). -/
def execJpV0 (nnn : BitVec 12) (s : State) : Host.Outcome State Fault Refusal :=
  .next { s with pc := trunc16 (((zext16 nnn).toNat + (s.reg 0).toNat : Nat) : Int) }

/-- CALL nnn: push the address of the next instruction and jump; StackOverflow on 16 entries (R134). -/
def execCall (nnn : BitVec 12) (s : State) : Host.Outcome State Fault Refusal :=
  if s.stack.length = stackDepth then s.raise .stackOverflow (encode (.call nnn)) none
  else .next { s.push s.pc with pc := zext16 nnn }

/-- SE Vx, kk (R135). -/
def execSeVxKk (x : Reg) (kk : Byte) (s : State) : Host.Outcome State Fault Refusal := .next (s.skipIf (s.reg x == kk))

/-- SNE Vx, kk (R136). -/
def execSneVxKk (x : Reg) (kk : Byte) (s : State) : Host.Outcome State Fault Refusal := .next (s.skipIf (s.reg x != kk))

/-- SE Vx, Vy (R137). -/
def execSeVxVy (x y : Reg) (s : State) : Host.Outcome State Fault Refusal := .next (s.skipIf (s.reg x == s.reg y))

/-- SNE Vx, Vy (R138). -/
def execSneVxVy (x y : Reg) (s : State) : Host.Outcome State Fault Refusal := .next (s.skipIf (s.reg x != s.reg y))

end Sys2Proof.Machine
end

