-- ==== Sys2Proof/Machine/Display.lean ====
section
/-! DEFINITION. CLS, DRW and the sprite blitter (43_display.md). -/

namespace Sys2Proof.Machine

/-- CLS: every cell off (R180). -/
def execCls (s : State) : Host.Outcome State Fault Refusal := .next { s with fb := Framebuffer.off }

/-- The blitter's working state: the display and the collision bit so far (R181). -/
structure Blit where
  fb : Framebuffer
  hit : Bool
  deriving DecidableEq, Repr

/-- XOR one set sprite bit into its cell, and note whether the cell was on (R181, R183). -/
def Blit.pixel (c : Blit) (px : Fin 64) (py : Fin 32) : Blit :=
  { fb := c.fb.setCell px py (!c.fb.cell px py), hit := c.hit || c.fb.cell px py }

/-- The column of a sprite bit: `(x0 + c) mod 64` (R182). -/
def spriteCol (x0 c : Nat) : Fin 64 := Fin.ofNat 64 (x0 + c)

/-- The row of a sprite byte: `(y0 + r) mod 32` (R182). -/
def spriteRow (y0 r : Nat) : Fin 32 := Fin.ofNat 32 (y0 + r)

/-- The sprite bit at column offset `c`: MSB first, bit 7 is offset 0 (R181). -/
def spriteBit (b : Byte) (c : Nat) : Bool := b.getLsbD (7 - c)

/-- The column offsets of a sprite row, left to right (R181). -/
def spriteCols : List Nat := [0, 1, 2, 3, 4, 5, 6, 7]

/-- One sprite row: its set bits, left to right, into display row `py` (R181). -/
def Blit.row (b : Byte) (x0 : Nat) (py : Fin 32) : List Nat → Blit → Blit
  | [], t => t
  | c :: cs, t => Blit.row b x0 py cs (if spriteBit b c then t.pixel (spriteCol x0 c) py else t)

/-- The sprite rows from row offset `r` on, top to bottom (R181). -/
def Blit.rows (x0 y0 : Nat) : List Byte → Nat → Blit → Blit
  | [], _, t => t
  | b :: bs, r, t => Blit.rows x0 y0 bs (r + 1) (Blit.row b x0 (spriteRow y0 r) spriteCols t)

/-- Draw a sprite, given by its rows, at the start coordinates `x0`, `y0` (R181). -/
def drawSprite (rows : List Byte) (x0 y0 : Nat) (fb : Framebuffer) : Blit :=
  Blit.rows x0 y0 rows 0 { fb := fb, hit := false }

/-- DRW Vx, Vy, n: read the rows at I, draw them at (Vx, Vy) as they were before the instruction, then VF = the
collision; MemoryRange with the lowest address out of range, and no change (R181). -/
def execDrw (x y : Reg) (n : BitVec 4) (s : State) : Host.Outcome State Fault Refusal :=
  match s.readBytes (s.dataAddr 0) n.toNat with
  | .error a => s.raise .memoryRange (encode (.drw x y n)) (some a)
  | .ok rows =>
    let drawn := drawSprite rows (s.reg x).toNat (s.reg y).toNat s.fb
    .next ({ s with fb := drawn.fb }.setFlag drawn.hit)

end Sys2Proof.Machine
end

