-- ==== Sys2Proof/Machine/IndexMemory.lean ====
section
/-! DEFINITION. Index register, BCD and block load and store (45_index_memory.md). -/

namespace Sys2Proof.Machine

/-- LD I, nnn (R220). -/
def execLdI (nnn : BitVec 12) (s : State) : Host.Outcome State Fault Refusal := .next { s with i := zext16 nnn }

/-- ADD I, Vx: `trunc16(I + x[X])`, no flag (R221). -/
def execAddIVx (x : Reg) (s : State) : Host.Outcome State Fault Refusal :=
  .next { s with i := trunc16 ((s.i.toNat + (s.reg x).toNat : Nat) : Int) }

/-- LD F, Vx: `trunc16(0x050 + 5 x[X])`, unmasked (R222). -/
def execLdFVx (x : Reg) (s : State) : Host.Outcome State Fault Refusal :=
  .next { s with i := trunc16 ((fontBase + 5 * (s.reg x).toNat : Nat) : Int) }

/-- Store a run of bytes at I for an instruction with word `w`: MemoryRange with the lowest address out of range,
and nothing stored, if the run reaches past the top (R223, R224). -/
def State.storeAtI (s : State) (w : Word16) (bytes : List Byte) : Host.Outcome State Fault Refusal :=
  match s.writeBytes (s.dataAddr 0) bytes with
  | .error a => s.raise .memoryRange w (some a)
  | .ok t => .next t

/-- LD B, Vx: the decimal digits of Vx at I, I + 1, I + 2 (R223). -/
def execLdBVx (x : Reg) (s : State) : Host.Outcome State Fault Refusal :=
  s.storeAtI (encode (.ldBVx x)) (bcdDigits (s.reg x))

/-- LD [I], Vx: V0 to Vx at I on (R224). I stays. -/
def execLdIVx (x : Reg) (s : State) : Host.Outcome State Fault Refusal := s.storeAtI (encode (.ldIVx x)) (s.regsTo x)

/-- LD Vx, [I]: V0 to Vx from I on (R225). I stays. -/
def execLdVxI (x : Reg) (s : State) : Host.Outcome State Fault Refusal :=
  match s.readBytes (s.dataAddr 0) (x.val + 1) with
  | .error a => s.raise .memoryRange (encode (.ldVxI x)) (some a)
  | .ok bytes => .next (s.loadRegs 0 bytes)

end Sys2Proof.Machine
end

