-- ==== Sys2Proof/Machine/KeypadTimers.lean ====
section
/-! DEFINITION. Keypad and timer instructions (44_keypad_timers.md). -/

namespace Sys2Proof.Machine

/-- The key a register's value names, if it names one: 0 to 15 (R200). -/
def keyNamed (b : Byte) : Option Key := if h : b.toNat < 16 then some ⟨b.toNat, h⟩ else none

/-- SKP Vx: skip if the key is down; KeyIndex when Vx > 15 (R200). -/
def execSkpVx (x : Reg) (s : State) : Host.Outcome State Fault Refusal :=
  match keyNamed (s.reg x) with
  | none => s.raise .keyIndex (encode (.skpVx x)) none
  | some k => .next (s.skipIf (s.keyAt k))

/-- SKNP Vx: skip if the key is up; KeyIndex when Vx > 15 (R201). -/
def execSknpVx (x : Reg) (s : State) : Host.Outcome State Fault Refusal :=
  match keyNamed (s.reg x) with
  | none => s.raise .keyIndex (encode (.sknpVx x)) none
  | some k => .next (s.skipIf (!s.keyAt k))

/-- LD Vx, DT (R202). -/
def execLdVxDt (x : Reg) (s : State) : Host.Outcome State Fault Refusal := .next (s.setReg x s.dt)

/-- LD Vx, K: register the wait; Vx is written by the poll that resolves it (R203, R267). -/
def execLdVxK (x : Reg) (s : State) : Host.Outcome State Fault Refusal := .next { s with future := .pending x }

/-- LD DT, Vx (R204). -/
def execLdDtVx (x : Reg) (s : State) : Host.Outcome State Fault Refusal := .next { s with dt := s.reg x }

/-- LD ST, Vx (R205). -/
def execLdStVx (x : Reg) (s : State) : Host.Outcome State Fault Refusal := .next { s with st := s.reg x }

end Sys2Proof.Machine
end

