-- ==== Sys2Proof/Machine/Lifecycle.lean ====
section
/-! DEFINITION. Reset, load and the scheduler's commands (70_reset_and_hazards.md R301 to R304, 60_exceptions.md
R272). -/

namespace Sys2Proof.Machine

/-- `InstallImage()` (R303): zeros and the font, which unlisted addresses read as, and the staged ROM from 0x200. -/
def installImage (g : Font) : Option (List Byte) → Memory
  | none => []
  | some b => Memory.image g romBase b

/-- `reset()` (R301). staged_rom, the refusal mark and the model's own fields stay (R304). -/
def State.resetCore (s : State) : State :=
  { s with
    mem := installImage s.cfg.fontGlyphs s.stagedRom
    v := Vector.replicate 16 0
    pc := 0x200
    i := 0
    dt := 0
    st := 0
    stack := []
    cycleCount := 0
    fb := Framebuffer.off
    key := Vector.replicate 16 false
    prev := Vector.replicate 16 false
    future := .inactive
    fault := none
    running := s.stagedRom.isSome
    schedActive := s.schedActive || s.stagedRom.isSome }

/-- `load_rom(bytes)` (R302): stage the first 3584 bytes, the whole of reset, then run. -/
def State.loadRom (s : State) (bytes : List Byte) : State :=
  { ({ s with stagedRom := some (bytes.take romMax) }).resetCore with running := true, schedActive := true }

/-- `start()` (R272). -/
def State.startTicks (s : State) : State := { s with schedActive := true }

/-- `stop()` and, for the core, `cleanup()` (R272). -/
def State.stopTicks (s : State) : State := { s with schedActive := false }

end Sys2Proof.Machine
end

