-- ==== Sys2Proof/Machine/Tick.lean ====
section
/-! DEFINITION. The CPU tick (40_fetch_execute.md R110 to R118) and the moves of the environment
(60_exceptions.md R272, R273). -/

namespace Sys2Proof.Machine

/-- The address check of `Fetch(pc0)` (R114): an odd address, then one that reaches past the top; `none` where the
word can be read. The second part is the recorded address. -/
def fetchFault (pc0 : Word16) : Option (Fault × Option Nat) :=
  if pc0.toNat % 2 = 1 then some (.misalignedFetch, none)
  else if memSize ≤ pc0.toNat + 1 then some (.fetchRange, some pc0.toNat)
  else none

/-- Whether the cycle cap stops execution: `cycle_count ≥ c` (R113). -/
def State.capHit (s : State) : Bool :=
  match s.cfg.cycleCap with
  | none => false
  | some c => decide (c ≤ s.cycleCount)

/-- Retire: count the instruction and clear the keypad snapshot (R118). -/
def State.retire (s : State) : State := { s.clearPrevious with cycleCount := s.cycleCount + 1 }

/-- What the tick does with Execute's outcome: retire it, or keep the fault it raised (R118, R253). A core that
executes has no fault before (R111), so a fault after it is the instruction's own. -/
def retireUnlessFaulted : Host.Outcome State Fault Refusal → Host.Outcome State Fault Refusal
  | .next t => .next (if t.fault.isNone then t.retire else t)
  | .fault f => .fault f
  | .refused r => .refused r

/-- `refuse` (R258): the state as it was, with the mark. -/
def State.refuse (s : State) : State := { s with refused := true }

/-- Fetch, decode, advance, execute and retire (R110 from its sixth line on; R114 to R118). -/
def State.fetchExecute (s : State) : Host.Outcome State Fault Refusal :=
  match fetchFault s.pc with
  | some (c, a) => .next (s.takeFault s.pc c none a)
  | none =>
    match decode (s.fetchWord s.pc.toNat) with
    | none => .next (s.takeFault s.pc .illegalInstruction (some (s.fetchWord s.pc.toNat)) none)
    | some i =>
      match s.cfg.quirkMode with
      | .maximal => .next s.refuse
      | .standard => retireUnlessFaulted (exec i s.advance)

/-- `CpuTick()` (R110): a faulted core does nothing (R111), a pending wait only polls (R112), and the run gate
comes before the fetch (R113). -/
def State.cpuTick (s : State) : Host.Outcome State Fault Refusal :=
  if s.fault.isSome then .next s
  else
    match s.future with
    | .pending t => .next (s.pollKeyWait t)
    | .inactive => if s.running && !s.capHit then s.fetchExecute else .next s

/-- One step of R273. A tick is delivered only while `sched_active` is true (R272); one that is not delivered
changes nothing (log 2). -/
def State.runMove (s : State) : Move → Host.Outcome State Fault Refusal
  | .cpuTick => if s.schedActive then s.cpuTick else .next s
  | .timerTick => .next (if s.schedActive then s.timerTick else s)
  | .keyDown k => .next (s.keyDown k)
  | .keyUp k => .next (s.keyUp k)
  | .loadRom bytes => .next (s.loadRom bytes)
  | .reset => .next s.resetCore
  | .start => .next s.startTicks
  | .stop => .next s.stopTicks
  | .cleanup => .next s.stopTicks

/-- The environment's next move and the state with it taken: off the schedule, or the next free move when the
schedule is empty (R273, log 1). -/
def State.nextMove (s : State) : Move × State :=
  match s.schedule with
  | [] => (Config.envMove s.moveCount, { s with moveCount := s.moveCount + 1 })
  | m :: ms => (m, { s with schedule := ms })

/-- One step of the machine: run the next move. -/
def State.machineStep (s : State) : Host.Outcome State Fault Refusal := s.nextMove.2.runMove s.nextMove.1

/-- An address an instruction can be fetched from: where pc is none, the ROM origin (R114, R305). -/
def fetchPlace (pc0 : Word16) : Word16 := if (fetchFault pc0).isSome then 0x200 else pc0

/-- A state whose very next step fetches and executes the word `w` at its pc (log 9): the word at the place of
the fetch, a CPU tick first on the schedule, and none of the conditions that keep a tick from executing. -/
def State.poised (s : State) (w : Word16) : State :=
  let pc0 := fetchPlace s.pc
  let t := { s with
    pc := pc0
    running := true
    schedActive := true
    future := .inactive
    fault := none
    schedule := .cpuTick :: s.schedule
    cfg := { s.cfg with quirkMode := .standard, cycleCap := none } }
  (t.setByte pc0.toNat (w.extractLsb' 8 8)).setByte (pc0.toNat + 1) (w.extractLsb' 0 8)

end Sys2Proof.Machine
end

