-- ==== Sys2Proof/Machine/Step.lean ====
section
/-! DEFINITION. The step of the machine, and the host's way to place one instruction. -/

namespace Sys2Proof.Machine

/-- One step: the environment's next move (60_exceptions.md R273). -/
def step (s : State) : Host.Outcome State Fault Refusal := s.machineStep

/-- The state whose very next step fetches and runs the instruction with the table bits `w` (log 9). Every
instruction is one 16-bit word (R80); the bits above `nbits` are 0. -/
def State.withFetchWord (s : State) (nbits w : Nat) : State := s.poised (BitVec.ofNat 16 (w % 2 ^ nbits))

end Sys2Proof.Machine
end

