-- ==== Sys2Proof/Safety.lean ====
section
/-! DEFINITION. The terms claims are stated in: the state invariant, the end of a run (70_reset_and_hazards.md
R319), a run without fault or refusal, and runs under an unending order of moves with their weak fairness
(60_exceptions.md R273). -/

namespace Sys2Proof.Machine

/-- What a fault record holds for its cause (R252): the word for every cause but the two of the fetch, an address
out of range for the two range faults and none for the others. -/
def FaultRecord.wf (r : FaultRecord) : Bool :=
  match r.cause with
  | .illegalInstruction | .stackOverflow | .stackUnderflow | .keyIndex => r.word.isSome && r.addr.isNone
  | .misalignedFetch => r.word.isNone && r.addr.isNone && decide (r.pc.toNat % 2 = 1)
  | .fetchRange => r.word.isNone && r.addr == some r.pc.toNat && decide (memSize ≤ r.pc.toNat + 1)
  | .memoryRange => r.word.isSome && r.addr.any fun a => decide (memSize ≤ a)

/-- The invariant of the machine: each clause cites the rule that gives it. It holds at reset and every step keeps
it, whatever the environment schedules. -/
structure State.Inv (s : State) : Prop where
  /-- Memory is in its canonical form (log 6). -/
  memWf : Memory.wf s.cfg.fontGlyphs s.mem = true
  /-- "No value of pc that the rules produce exceeds 0x10FE" (R23). -/
  pcBound : s.pc.toNat ≤ 0x10FE
  /-- The stack is "bounded to 16 entries" (R27). -/
  stackBound : s.stack.length ≤ stackDepth
  /-- A return address is even (R131) and follows a fetchable instruction (R114, R134). -/
  stackEntries : ∀ a ∈ s.stack, a.toNat % 2 = 0 ∧ a.toNat ≤ memSize
  /-- staged_rom holds at most 3584 bytes (R31). -/
  stagedBound : ∀ b, s.stagedRom = some b → b.length ≤ romMax
  /-- The record has the fields of its cause (R252). -/
  faultWf : ∀ r, s.fault = some r → r.wf = true
  /-- While faulted, pc stays at the faulting instruction (R253, R255). -/
  faultPc : ∀ r, s.fault = some r → r.pc = s.pc
  /-- "A fault and a pending key wait never coexist" (R255). -/
  faultNoWait : s.fault.isSome = true → s.future = .inactive
  /-- Under a cap c at most c instructions run (R113). -/
  capKept : ∀ c, s.cfg.cycleCap = some c → s.cycleCount ≤ c
  /-- "Under QUIRK_MODE = standard no step is ever refused" (R258). -/
  refusedMode : s.refused = true → s.cfg.quirkMode = .maximal

/-- The end of a run (R319): nothing faulted or refused, no wait, running, and a jump to itself at a fetchable pc ((a)
to (d)); and the cycle cap not reached, since a state that has reached it is not final ((4), 93 U19). -/
def State.endOfRun (s : State) : Bool :=
  s.fault.isNone && !s.refused && s.future == .inactive && s.running && decide (s.pc.toNat % 2 = 0)
    && decide (s.pc.toNat + 1 < memSize) && s.fetchWord s.pc.toNat == 0x1000#16 ||| s.pc && !s.capHit

/-- A state no claim is lost in: no fault, no refusal (R251, R258, R319). -/
def State.safe (s : State) : Bool := s.fault.isNone && !s.refused

/-- The conditions under which a CPU tick fetches (R110 to R113): ticks are delivered, and there is no fault, no
wait, no stopped core and no cycle cap in the way. -/
def State.executes (s : State) : Bool :=
  s.schedActive && s.fault.isNone && s.future == .inactive && s.running && !s.capHit

/-- The next move is a CPU tick (R273, log 1). -/
def State.cpuTickNext (s : State) : Bool := s.nextMove.1 == .cpuTick

/-! ### Runs under an order of moves (R273) -/

/-- The state after n steps; nothing where a step answers no next state. -/
def steps : Nat → State → Option State
  | 0, s => some s
  | n + 1, s =>
    match step s with
    | .next t => steps n t
    | _ => none

/-- The n-th move to come: the schedule's, and the free moves after it. -/
def State.moveAt (s : State) (n : Nat) : Move :=
  s.schedule[n]?.getD (Config.envMove (s.moveCount + (n - s.schedule.length)))

/-- The state after one move. -/
def State.moved (s : State) (m : Move) : State :=
  match s.runMove m with
  | .next t => t
  | _ => s

/-- The state after the first n moves of an unending order of moves. -/
def State.under (env : Nat → Move) (s : State) : Nat → State
  | 0 => s
  | n + 1 => (s.under env n).moved (env n)

/-- Weak fairness, all that a claim of progress may assume of an order of moves (R273, R313): "while `sched_active`,
CPU ticks and timer ticks each keep occurring". -/
def State.WeaklyFair (s : State) (env : Nat → Move) : Prop :=
  ∀ n, (∀ m, n ≤ m → (s.under env m).schedActive = true) →
    (∃ m, n ≤ m ∧ env m = .cpuTick) ∧ ∃ m, n ≤ m ∧ env m = .timerTick

end Sys2Proof.Machine
end

