-- ==== Sys2Proof/Certificates/Slice0/Obligations.lean ====
section
/-! DEFINITION. The statements for the provers. `exec i s` runs on the state after the fetch advance, so there
`s.pc` is pc0 + 2 (40_fetch_execute.md R116, R117) and the faulting instruction's address is `s.pc - 2`. -/

open Sys2Proof Sys2Proof.Machine

namespace Sys2Proof.Claims

/-- Every byte of memory reads as before. -/
def SameBytes (s t : State) : Prop := ∀ a, t.byteAt a = s.byteAt a

/-- The frame of a register instruction: no register outside `dst` changes, no byte of memory, and no other field of
the state at all. -/
def OnlyRegs (s t : State) (dst : List Reg) : Prop :=
  (∀ r, r ∉ dst → t.reg r = s.reg r) ∧ SameBytes s t ∧ t = { s with v := t.v }

/-- The frame of an instruction that writes pc alone. -/
def OnlyPc (s t : State) : Prop := (∀ r, t.reg r = s.reg r) ∧ SameBytes s t ∧ t = { s with pc := t.pc }

/-- The frame of a store of `len` bytes from `a` on: every byte outside reads as before, and no field but memory
changes. -/
def OnlyBytes (s t : State) (a len : Nat) : Prop :=
  (∀ c, ¬ (a ≤ c ∧ c < a + len) → t.byteAt c = s.byteAt c) ∧ (∀ r, t.reg r = s.reg r) ∧ t = { s with mem := t.mem }

/-- The state a raise of the executing instruction `i` leaves (R253): no write of the instruction, pc at pc0 again,
and the record. -/
def raised (s : State) (c : Fault) (i : Instr) (addr : Option Nat) : State :=
  { s with pc := s.pc - 2, fault := some { cause := c, pc := s.pc - 2, word := some (encode i), addr := addr } }

/-- A byte of 1 or 0. -/
def bit (c : Prop) [Decidable c] : Byte := if c then 1 else 0

/-- The sprite of `DRW Vx, Vy, n` covers the cell (px, py): a set bit of row r, at column offset c, lands there
(R181, R182). -/
def SpriteCovers (s : State) (x y : Reg) (n : BitVec 4) (px : Fin 64) (py : Fin 32) : Prop :=
  ∃ r, r < n.toNat ∧ ∃ c, c < 8 ∧ (s.byteAt (s.i.toNat + r)).getLsbD (7 - c) = true ∧
    px.val = ((s.reg x).toNat + c) % 64 ∧ py.val = ((s.reg y).toNat + r) % 32

/-- The state a step starts from, its move taken: off the schedule, or off the free moves when that is empty. -/
def afterMove (s : State) : State :=
  { s with schedule := s.schedule.tail, moveCount := if s.schedule = [] then s.moveCount + 1 else s.moveCount }

/-- The next move is `m`. -/
def MoveIs (s : State) (m : Move) : Prop := s.nextMove.1 = m

/-- The next move is `load_rom` of some bytes. -/
def MoveLoads (s : State) : Prop := ∃ bytes, s.nextMove.1 = .loadRom bytes

/-- The instruction the next fetch reads. -/
def fetched (s : State) : Option Instr := decode (s.fetchWord s.pc.toNat)

end Sys2Proof.Claims

open Sys2Proof.Claims

/-! ### Encoding -/

/-- Words written out from R85, one or more of each family (95_test_vectors.md 2.1 and W14). -/
def Obligations.WrittenOutWordsDecode : Prop :=
  decode 0x00E0#16 = some .cls ∧ decode 0x00EE#16 = some .ret ∧ decode 0x00E1#16 = some (.sys 0x0E1#12) ∧
  decode 0x2ABC#16 = some (.call 0xABC#12) ∧ decode 0xB123#16 = some (.jpV0 0x123#12) ∧
  decode 0x5120#16 = some (.seVxVy 1 2) ∧ decode 0x5121#16 = none ∧ decode 0x7C42#16 = some (.addVxKk 0xC 0x42#8) ∧
  decode 0x8AB6#16 = some (.shrVx 0xA 0xB) ∧ decode 0x8008#16 = none ∧ decode 0xD5A3#16 = some (.drw 5 0xA 0x3#4) ∧
  decode 0xE09E#16 = some (.skpVx 0) ∧ decode 0xE09F#16 = none ∧ decode 0xF00A#16 = some (.ldVxK 0) ∧
  decode 0xF165#16 = some (.ldVxI 1)

/-- Decoding the word of a well-formed instruction gives it back, with every operand at every value. -/
def Obligations.DecodeOfEncode : Prop := ∀ i : Instr, i.wellFormed = true → decode (encode i) = some i

/-- The other direction: every word that decodes is the word of the instruction it decodes to, which is well formed. -/
def Obligations.EncodeOfDecode : Prop := ∀ (w : Word16) (i : Instr), decode w = some i → i.wellFormed = true ∧ encode i = w

/-- The decoder is R84's function over the rows of R85: a word decodes to a kind exactly when it matches that kind's
row. -/
def Obligations.DecoderFollowsOpcodeMap : Prop :=
  ∀ (w : Word16) (r : OpcodeRow), r ∈ opcodeTable →
    ((∃ i, decode w = some i ∧ i.mnemonic = r.mnemonic) ↔ r.matchesWord w = true)

/-- R86: at most one row matches a word, and there are 35 rows. -/
def Obligations.OpcodeRowsMutuallyExclusive : Prop :=
  opcodeTable.length = 35 ∧
  ∀ (w : Word16) (r q : OpcodeRow), r ∈ opcodeTable → q ∈ opcodeTable →
    r.matchesWord w = true → q.matchesWord w = true → r = q

/-- R87: the words that decode to nothing are exactly the table's five groups. -/
def Obligations.GapWordsDecodeToNothing : Prop :=
  ∀ w : Word16, decode w = none ↔
    (opField w = 0x5#4 ∧ nField w ≠ 0x0#4) ∨
    (opField w = 0x8#4 ∧ nField w ∈ [0x8#4, 0x9#4, 0xA#4, 0xB#4, 0xC#4, 0xD#4, 0xF#4]) ∨
    (opField w = 0x9#4 ∧ nField w ≠ 0x0#4) ∨
    (opField w = 0xE#4 ∧ kkField w ∉ [0x9E#8, 0xA1#8]) ∨
    (opField w = 0xF#4 ∧ kkField w ∉ [0x07#8, 0x0A#8, 0x15#8, 0x18#8, 0x1E#8, 0x29#8, 0x33#8, 0x55#8, 0x65#8])

/-! ### The CPU tick -/

/-- The fetched word is the byte at the address as its high byte and the next byte as its low byte (R56, R57), for
every address. A step whose fetched word decodes runs that instruction on the state with pc advanced by 2, and then
retires it (R110, R116, R118) unless the instruction raised, in which case the raise's state stands (R253). -/
def Obligations.StepRunsDecodedInstruction : Prop :=
  (∀ (s : State) (a : Nat), (s.fetchWord a).toNat = 256 * (s.byteAt a).toNat + (s.byteAt (a + 1)).toNat) ∧
  ∀ (s : State) (i : Instr) (t : State), s.cpuTickNext = true → s.executes = true → s.cfg.quirkMode = .standard →
    s.pc.toNat % 2 = 0 → s.pc.toNat + 1 < 4096 → fetched s = some i →
    exec i { afterMove s with pc := s.pc + 2 } = .next t →
    step s = .next (if t.fault = none then
      { t with cycleCount := t.cycleCount + 1, prev := Vector.replicate 16 false } else t)

/-- R114: the address check of a fetch, alignment first. The state is the one before, with the record. The fault
policy is the spec's own decision, D4 and D5. -/
def Obligations.FetchAddressFaults : Prop :=
  ∀ s : State, s.cpuTickNext = true → s.executes = true →
    (s.pc.toNat % 2 = 1 → step s = .next { afterMove s with
      fault := some { cause := .misalignedFetch, pc := s.pc, word := none, addr := none } }) ∧
    (s.pc.toNat % 2 = 0 → 4096 ≤ s.pc.toNat + 1 → step s = .next { afterMove s with
      fault := some { cause := .fetchRange, pc := s.pc, word := none, addr := some s.pc.toNat } })

/-- R115: a fetched word that matches no row raises IllegalInstruction with the word, before any change (D6). -/
def Obligations.IllegalWordRaises : Prop :=
  ∀ s : State, s.cpuTickNext = true → s.executes = true → s.pc.toNat % 2 = 0 → s.pc.toNat + 1 < 4096 →
    fetched s = none →
    step s = .next { afterMove s with
      fault := some { cause := .illegalInstruction, pc := s.pc, word := some (s.fetchWord s.pc.toNat), addr := none } }

/-- R253, for every fault of a CPU tick, whatever raised it: the state is exactly that before the tick, plus the
record, whose pc is the pc of the tick, whose word is the fetched word, and whose fields are those of its cause
(R252). The record is the spec's own decision, D9. -/
def Obligations.FaultsArePrecise : Prop :=
  ∀ s t : State, s.cpuTickNext = true → s.fault = none → step s = .next t → t.fault ≠ none →
    ∃ r : FaultRecord, t = { afterMove s with fault := some r } ∧ r.pc = s.pc ∧ r.wf = true ∧
      (∀ w, r.word = some w → w = s.fetchWord s.pc.toNat)

/-- R111, R255, R256: while faulted, no step but reset and load_rom changes the record, pc, the registers, I, the
stack, the display, cycle_count, the key wait or any byte of memory (D9). -/
def Obligations.FaultedCoreIsFrozen : Prop :=
  ∀ s t : State, s.fault ≠ none → ¬ MoveIs s .reset → ¬ MoveLoads s → step s = .next t →
    t.fault = s.fault ∧ t.pc = s.pc ∧ (∀ r, t.reg r = s.reg r) ∧ t.i = s.i ∧ t.stack = s.stack ∧ t.fb = s.fb ∧
      t.cycleCount = s.cycleCount ∧ t.future = s.future ∧ SameBytes s t

/-- R112: while a wait is pending a CPU tick only polls, whatever `running` and the cycle cap: it writes at most the
target register and the wait itself. -/
def Obligations.PendingWaitOnlyPolls : Prop :=
  ∀ (s t : State) (r : Reg), s.cpuTickNext = true → s.schedActive = true → s.fault = none → s.future = .pending r →
    step s = .next t →
    t = { afterMove s with v := t.v, future := t.future } ∧ (∀ q, q ≠ r → t.reg q = s.reg q) ∧ SameBytes s t ∧
    (t.future = .inactive ∨ t.future = .pending r ∧ t.reg r = s.reg r)

/-- R265, R267: a poll that finds release edges takes the smallest key with one: its number goes to the waiting
register and the wait ends; a poll that finds none changes nothing. The scan order is the spec's own decision, D17. -/
def Obligations.PollTakesSmallestReleasedKey : Prop :=
  ∀ (s : State) (r : Reg), s.cpuTickNext = true → s.schedActive = true → s.fault = none → s.future = .pending r →
    (∀ k : Key, (s.prevAt k = true ∧ s.keyAt k = false) → (∀ j, j < k → ¬ (s.prevAt j = true ∧ s.keyAt j = false)) →
      ∃ t, step s = .next t ∧ (t.reg r).toNat = k.val ∧ t.future = .inactive ∧
        (∀ q, q ≠ r → t.reg q = s.reg q) ∧ t = { afterMove s with v := t.v, future := .inactive }) ∧
    ((∀ k : Key, ¬ (s.prevAt k = true ∧ s.keyAt k = false)) → step s = .next (afterMove s))

/-- R113: with no fault and no wait, a core that is not running, or whose cycle_count has reached the cap, changes
nothing at a CPU tick. "Has not hit" as `<` is the spec's own decision, D21. -/
def Obligations.RunGateHoldsExecution : Prop :=
  ∀ s : State, s.cpuTickNext = true → s.fault = none → s.future = .inactive →
    (s.running = false ∨ ∃ c, s.cfg.cycleCap = some c ∧ c ≤ s.cycleCount) → step s = .next (afterMove s)

/-- R258: under QUIRK_MODE = maximal a tick that fetches and decodes sets the mark and changes nothing else (the
spec's own decision, D10). -/
def Obligations.MaximalQuirkModeIsRefused : Prop :=
  ∀ (s : State) (i : Instr), s.cpuTickNext = true → s.executes = true → s.cfg.quirkMode = .maximal →
    s.pc.toNat % 2 = 0 → s.pc.toNat + 1 < 4096 → fetched s = some i →
    step s = .next { afterMove s with refused := true }

/-- R118: a CPU tick that completes an instruction adds one to cycle_count and clears every prev(k); one that faulted,
was refused, polled or did nothing does neither. -/
def Obligations.RetireCountsAndClearsPrevious : Prop :=
  ∀ s t : State, s.cpuTickNext = true → step s = .next t →
    (s.executes = true ∧ s.cfg.quirkMode = .standard ∧ t.fault = none →
      t.cycleCount = s.cycleCount + 1 ∧ ∀ k, t.prevAt k = false) ∧
    (¬ (s.executes = true ∧ s.cfg.quirkMode = .standard ∧ t.fault = none) →
      t.cycleCount = s.cycleCount ∧ t.prev = s.prev)

/-- R272: while `sched_active` is false neither tick is delivered. That an undelivered tick is a step that changes
nothing is the model's choice, log 2. -/
def Obligations.UndeliveredTicksChangeNothing : Prop :=
  ∀ s : State, s.schedActive = false → (s.cpuTickNext = true ∨ MoveIs s .timerTick) → step s = .next (afterMove s)

/-! ### Invariants and whole-machine rules -/

/-- The invariant holds at construction. -/
def Obligations.ResetMeetsInvariant : Prop := State.reset.Inv

/-- Every step keeps the invariant, from every state that meets it and whatever the environment schedules: memory
canonical, pc within 0x10FE, at most 16 even return addresses, the staged ROM in bounds, the fault record of its cause
at pc and without a wait, the cycle cap kept, and the refusal mark only under the maximal mode. -/
def Obligations.StepKeepsInvariant : Prop := ∀ s t : State, s.Inv → step s = .next t → t.Inv

/-- Nothing stops the machine: every step, and every instruction on every state, answers a next state (R251, R258: a
fault and a refusal are states). -/
def Obligations.NoStepStopsTheMachine : Prop :=
  (∀ s : State, ∃ t, step s = .next t) ∧ (∀ (i : Instr) (s : State), ∃ t, exec i s = .next t)

/-- R304: no step changes a parameter; reset leaves staged_rom; reset and load leave the refusal mark; start, stop and
cleanup change only sched_active. -/
def Obligations.ParametersAndMarksOutliveReset : Prop :=
  (∀ s t : State, step s = .next t → t.cfg = s.cfg) ∧
  (∀ s t : State, MoveIs s .reset → step s = .next t → t.stagedRom = s.stagedRom ∧ t.refused = s.refused ∧
    t.rndCount = s.rndCount) ∧
  (∀ s t : State, MoveLoads s → step s = .next t → t.refused = s.refused ∧ t.rndCount = s.rndCount) ∧
  (∀ s t : State, (MoveIs s .start ∨ MoveIs s .stop ∨ MoveIs s .cleanup) → step s = .next t →
    t = { afterMove s with schedActive := t.schedActive } ∧ (t.schedActive = true ↔ MoveIs s .start))

/-- R37, R258: the refusal mark is never cleared, and is set only by a CPU tick under the maximal mode. -/
def Obligations.RefusalMarkIsSticky : Prop :=
  ∀ s t : State, step s = .next t →
    (s.refused = true → t.refused = true) ∧
    (s.refused = false → t.refused = true → s.cpuTickNext = true ∧ s.cfg.quirkMode = .maximal)

/-- R31: only load_rom writes staged_rom, and it stores the first 3584 bytes. That it keeps no more than these is the
spec's own decision, D29. -/
def Obligations.StagedRomWrittenOnlyByLoad : Prop :=
  ∀ s t : State, step s = .next t →
    (∀ bytes, MoveIs s (.loadRom bytes) → t.stagedRom = some (bytes.take 3584)) ∧
    (¬ MoveLoads s → t.stagedRom = s.stagedRom)

/-- R32, R185: the display changes only by reset, by load_rom, or by a CPU tick that executes CLS or DRW. -/
def Obligations.DisplayWrittenOnlyByClsAndDrw : Prop :=
  ∀ s t : State, step s = .next t → t.fb ≠ s.fb →
    MoveIs s .reset ∨ MoveLoads s ∨
    (s.cpuTickNext = true ∧ s.executes = true ∧ (fetched s = some .cls ∨ ∃ x y n, fetched s = some (.drw x y n)))

/-- R60, R63: a byte of memory changes only by reset, by load_rom, or by a CPU tick that executes LD B or LD [I], and
then only in the bytes that instruction addresses. -/
def Obligations.MemoryWrittenOnlyByStores : Prop :=
  ∀ (s t : State) (a : Nat), step s = .next t → t.byteAt a ≠ s.byteAt a →
    MoveIs s .reset ∨ MoveLoads s ∨
    (s.cpuTickNext = true ∧ s.executes = true ∧ s.i.toNat ≤ a ∧
      ((∃ x, fetched s = some (.ldBVx x) ∧ a < s.i.toNat + 3) ∨
       (∃ x, fetched s = some (.ldIVx x) ∧ a < s.i.toNat + x.val + 1)))

/-- R27: the stack changes only by reset, by load_rom, or by a CPU tick that executes CALL, which adds one entry on
top, or RET, which takes one off. -/
def Obligations.StackWrittenOnlyByCallAndRet : Prop :=
  ∀ s t : State, step s = .next t → t.stack ≠ s.stack →
    MoveIs s .reset ∨ MoveLoads s ∨
    (s.cpuTickNext = true ∧ s.executes = true ∧
      ((∃ nnn, fetched s = some (.call nnn) ∧ t.stack = s.stack ++ [s.pc + 2]) ∨
       (fetched s = some .ret ∧ s.stack = t.stack ++ [t.pc])))

/-- R26: no instruction reads ST, so two states that differ in ST alone go on to states that differ in ST at most. -/
def Obligations.NoInstructionReadsSoundTimer : Prop :=
  ∀ (i : Instr) (s t : State) (b : Byte), exec i s = .next t →
    ∃ c, exec i { s with st := b } = .next { t with st := c } ∧ ((∀ x, i ≠ .ldStVx x) → c = b)

/-- R28, R29, R31, R38: no instruction reads or writes running, cycle_count, sched_active, prev, staged_rom or the
refusal mark: changing them before an instruction changes exactly them after it. -/
def Obligations.NoInstructionReadsControlState : Prop :=
  ∀ (i : Instr) (s t : State) (run act ref : Bool) (n : Nat) (p : Vector Bool 16) (rom : Option (List Byte)),
    exec i s = .next t →
    t.running = s.running ∧ t.cycleCount = s.cycleCount ∧ t.schedActive = s.schedActive ∧ t.prev = s.prev ∧
    t.stagedRom = s.stagedRom ∧ t.refused = s.refused ∧
    exec i { s with running := run, cycleCount := n, schedActive := act, prev := p, stagedRom := rom, refused := ref }
      = .next { t with running := run, cycleCount := n, schedActive := act, prev := p, stagedRom := rom, refused := ref }

/-! ### Control flow -/

/-- R130, R132, R133, encodings and effect: SYS changes nothing, JP sets pc to nnn, JP V0 to nnn plus V0, which never
wraps; nothing but pc changes. -/
def Obligations.JumpsSetPc : Prop :=
  ∀ (nnn : BitVec 12) (s : State),
    ((nnn ≠ 0x0E0#12 → nnn ≠ 0x0EE#12 → decode (wordNnn 0x0 nnn) = some (.sys nnn)) ∧ exec (.sys nnn) s = .next s) ∧
    (decode (wordNnn 0x1 nnn) = some (.jp nnn) ∧
      ∃ t, exec (.jp nnn) s = .next t ∧ t.pc.toNat = nnn.toNat ∧ OnlyPc s t) ∧
    (decode (wordNnn 0xB nnn) = some (.jpV0 nnn) ∧
      ∃ t, exec (.jpV0 nnn) s = .next t ∧ t.pc.toNat = nnn.toNat + (s.reg 0).toNat ∧ OnlyPc s t)

/-- R134, R131: CALL below 16 entries pushes pc and jumps; RET on a stack with an entry pops its top into pc. Nothing
else changes. -/
def Obligations.CallPushesAndRetPops : Prop :=
  (∀ (nnn : BitVec 12) (s : State), s.stack.length < 16 →
    ∃ t, exec (.call nnn) s = .next t ∧ t.stack = s.stack ++ [s.pc] ∧ t.pc.toNat = nnn.toNat ∧
      (∀ r, t.reg r = s.reg r) ∧ SameBytes s t ∧ t = { s with pc := t.pc, stack := t.stack }) ∧
  (∀ (s : State) (below : List Word16) (a : Word16), s.stack = below ++ [a] →
    ∃ t, exec .ret s = .next t ∧ t.pc = a ∧ t.stack = below ∧
      (∀ r, t.reg r = s.reg r) ∧ SameBytes s t ∧ t = { s with pc := t.pc, stack := t.stack })

/-- R134, R131: CALL on 16 entries raises StackOverflow, RET on none StackUnderflow (the spec's own decisions, D7 and
D8). -/
def Obligations.StackFaultsRaise : Prop :=
  (∀ (nnn : BitVec 12) (s : State), s.stack.length = 16 →
    exec (.call nnn) s = .next (raised s .stackOverflow (.call nnn) none)) ∧
  (∀ s : State, s.stack = [] → exec .ret s = .next (raised s .stackUnderflow .ret none))

/-- R139 (g): a RET that meets the stack its CALL left resumes at the instruction after the CALL, with the stack the
CALL found. -/
def Obligations.RetUndoesCall : Prop :=
  ∀ (nnn : BitVec 12) (s : State), s.stack.length < 16 →
    ∃ t, exec (.call nnn) s = .next t ∧
      ∀ u : State, u.stack = t.stack → ∃ v, exec .ret u = .next v ∧ v.pc = s.pc ∧ v.stack = s.stack

/-- R135 to R138 with R121: the four compare-and-skip instructions, encoding and effect. A skip adds 2 to the advanced
pc; nothing but pc changes. -/
def Obligations.CompareSkips : Prop :=
  ∀ (x y : Reg) (kk : Byte) (s : State),
    (decode (wordXkk 0x3 x kk) = some (.seVxKk x kk) ∧
      ∃ t, exec (.seVxKk x kk) s = .next t ∧ t.pc = (if s.reg x = kk then s.pc + 2 else s.pc) ∧ OnlyPc s t) ∧
    (decode (wordXkk 0x4 x kk) = some (.sneVxKk x kk) ∧
      ∃ t, exec (.sneVxKk x kk) s = .next t ∧ t.pc = (if s.reg x ≠ kk then s.pc + 2 else s.pc) ∧ OnlyPc s t) ∧
    (decode (wordXyn 0x5 x y 0x0) = some (.seVxVy x y) ∧
      ∃ t, exec (.seVxVy x y) s = .next t ∧ t.pc = (if s.reg x = s.reg y then s.pc + 2 else s.pc) ∧ OnlyPc s t) ∧
    (decode (wordXyn 0x9 x y 0x0) = some (.sneVxVy x y) ∧
      ∃ t, exec (.sneVxVy x y) s = .next t ∧ t.pc = (if s.reg x ≠ s.reg y then s.pc + 2 else s.pc) ∧ OnlyPc s t)

/-- R200, R201: where Vx names a key, SKP skips when it is down and SKNP when it is up; where Vx > 15 both raise
KeyIndex (the spec's own decision, D12). -/
def Obligations.KeySkips : Prop :=
  ∀ (x : Reg) (s : State),
    (∀ k : Key, (s.reg x).toNat = k.val →
      (∃ t, exec (.skpVx x) s = .next t ∧ t.pc = (if s.keyAt k = true then s.pc + 2 else s.pc) ∧ OnlyPc s t) ∧
      (∃ t, exec (.sknpVx x) s = .next t ∧ t.pc = (if s.keyAt k = false then s.pc + 2 else s.pc) ∧ OnlyPc s t)) ∧
    (15 < (s.reg x).toNat →
      exec (.skpVx x) s = .next (raised s .keyIndex (.skpVx x) none) ∧
      exec (.sknpVx x) s = .next (raised s .keyIndex (.sknpVx x) none))

/-! ### Arithmetic and logic -/

/-- R150, R151: load immediate and register copy, encoding and effect; nothing but Vx changes. -/
def Obligations.LoadsWriteVx : Prop :=
  ∀ (x y : Reg) (kk : Byte) (s : State),
    (decode (wordXkk 0x6 x kk) = some (.ldVxKk x kk) ∧
      ∃ t, exec (.ldVxKk x kk) s = .next t ∧ t.reg x = kk ∧ OnlyRegs s t [x]) ∧
    (decode (wordXyn 0x8 x y 0x0) = some (.ldVxVy x y) ∧
      ∃ t, exec (.ldVxVy x y) s = .next t ∧ t.reg x = s.reg y ∧ OnlyRegs s t [x])

/-- R152: add immediate modulo 256, without a flag: VF changes only as the destination. -/
def Obligations.AddImmediateHasNoFlag : Prop :=
  ∀ (x : Reg) (kk : Byte) (s : State),
    decode (wordXkk 0x7 x kk) = some (.addVxKk x kk) ∧
    ∃ t, exec (.addVxKk x kk) s = .next t ∧ (t.reg x).toNat = ((s.reg x).toNat + kk.toNat) % 256 ∧ OnlyRegs s t [x]

/-- R153, R154, R155: the bitwise instructions, bit by bit; no flag, nothing but Vx changes. -/
def Obligations.BitwiseInstructions : Prop :=
  ∀ (x y : Reg) (s : State),
    (decode (wordXyn 0x8 x y 0x1) = some (.orVxVy x y) ∧
      ∃ t, exec (.orVxVy x y) s = .next t ∧ OnlyRegs s t [x] ∧
        ∀ b, (t.reg x).getLsbD b = ((s.reg x).getLsbD b || (s.reg y).getLsbD b)) ∧
    (decode (wordXyn 0x8 x y 0x2) = some (.andVxVy x y) ∧
      ∃ t, exec (.andVxVy x y) s = .next t ∧ OnlyRegs s t [x] ∧
        ∀ b, (t.reg x).getLsbD b = ((s.reg x).getLsbD b && (s.reg y).getLsbD b)) ∧
    (decode (wordXyn 0x8 x y 0x3) = some (.xorVxVy x y) ∧
      ∃ t, exec (.xorVxVy x y) s = .next t ∧ OnlyRegs s t [x] ∧
        ∀ b, (t.reg x).getLsbD b = ((s.reg x).getLsbD b ^^ (s.reg y).getLsbD b))

/-- R156 with R120: the sum modulo 256 to Vx, then the carry to VF; where x = F only the carry is left. -/
def Obligations.AddWritesSumThenCarry : Prop :=
  ∀ (x y : Reg) (s : State),
    decode (wordXyn 0x8 x y 0x4) = some (.addVxVy x y) ∧
    ∃ t, exec (.addVxVy x y) s = .next t ∧ OnlyRegs s t [x, 15] ∧
      t.reg 15 = bit (255 < (s.reg x).toNat + (s.reg y).toNat) ∧
      (x ≠ 15 → (t.reg x).toNat = ((s.reg x).toNat + (s.reg y).toNat) % 256)

/-- R157, R158 with R120: the wrapping difference to Vx, then VF = 1 exactly when the minuend is strictly greater. -/
def Obligations.SubtractsWriteDifferenceThenNoBorrow : Prop :=
  ∀ (x y : Reg) (s : State),
    (decode (wordXyn 0x8 x y 0x5) = some (.subVxVy x y) ∧
      ∃ t, exec (.subVxVy x y) s = .next t ∧ OnlyRegs s t [x, 15] ∧
        t.reg 15 = bit ((s.reg y).toNat < (s.reg x).toNat) ∧
        (x ≠ 15 → (t.reg x).toNat = ((s.reg x).toNat + 256 - (s.reg y).toNat) % 256)) ∧
    (decode (wordXyn 0x8 x y 0x7) = some (.subnVxVy x y) ∧
      ∃ t, exec (.subnVxVy x y) s = .next t ∧ OnlyRegs s t [x, 15] ∧
        t.reg 15 = bit ((s.reg x).toNat < (s.reg y).toNat) ∧
        (x ≠ 15 → (t.reg x).toNat = ((s.reg y).toNat + 256 - (s.reg x).toNat) % 256))

/-- R159, R160 with R120 and R89: the shifts by one bit, for every y: half and double modulo 256 to Vx, then the bit
shifted out to VF. -/
def Obligations.ShiftsWriteResultThenBitOut : Prop :=
  ∀ (x y : Reg) (s : State),
    (decode (wordXyn 0x8 x y 0x6) = some (.shrVx x y) ∧
      ∃ t, exec (.shrVx x y) s = .next t ∧ OnlyRegs s t [x, 15] ∧
        (t.reg 15).toNat = (s.reg x).toNat % 2 ∧ (x ≠ 15 → (t.reg x).toNat = (s.reg x).toNat / 2)) ∧
    (decode (wordXyn 0x8 x y 0xE) = some (.shlVx x y) ∧
      ∃ t, exec (.shlVx x y) s = .next t ∧ OnlyRegs s t [x, 15] ∧
        (t.reg 15).toNat = (s.reg x).toNat / 128 ∧ (x ≠ 15 → (t.reg x).toNat = (s.reg x).toNat * 2 % 256))

/-- R161: RND takes a fresh draw and masks it, bit by bit, whatever the draw is; kk = 0 gives 0 and kk = 0xFF the
draw. The draw is the free value of log 4, so this holds for every value of it. -/
def Obligations.RandomByteIsMasked : Prop :=
  ∀ (x : Reg) (kk : Byte) (s : State),
    ∃ t, exec (.rndVx x kk) s = .next t ∧ t.rndCount = s.rndCount + 1 ∧
      (∀ b, (t.reg x).getLsbD b = ((Config.rnd s.rndCount).getLsbD b && kk.getLsbD b)) ∧
      (kk = 0 → t.reg x = 0) ∧ (kk = 0xFF → t.reg x = Config.rnd s.rndCount) ∧
      (∀ r, r ≠ x → t.reg r = s.reg r) ∧ SameBytes s t ∧ t = { s with v := t.v, rndCount := t.rndCount }

/-! ### Display -/

/-- R180: CLS turns every cell off, whatever was on, and changes nothing else. -/
def Obligations.ClsTurnsEveryCellOff : Prop :=
  decode 0x00E0#16 = some .cls ∧
  ∀ s : State, ∃ t, exec .cls s = .next t ∧ (∀ px py, t.fb.cell px py = false) ∧ (∀ r, t.reg r = s.reg r) ∧
    SameBytes s t ∧ t = { s with fb := t.fb }

/-- R181 to R184: where every sprite byte is in memory (always so for n = 0), DRW changes exactly the cells the sprite
covers, so it is the simultaneous XOR of the sprite, and VF ends 1 exactly when a covered cell was on. The coordinates
are Vx and Vy as they were before, even when one of them is VF. Nothing else changes. -/
def Obligations.DrwXorsTheSprite : Prop :=
  ∀ (x y : Reg) (n : BitVec 4) (s : State), n = 0 ∨ s.i.toNat + n.toNat ≤ 4096 →
    ∃ t, exec (.drw x y n) s = .next t ∧
      (∀ px py, t.fb.cell px py ≠ s.fb.cell px py ↔ SpriteCovers s x y n px py) ∧
      (t.reg 15 = 0 ∨ t.reg 15 = 1) ∧
      (t.reg 15 = 1 ↔ ∃ px py, s.fb.cell px py = true ∧ SpriteCovers s x y n px py) ∧
      (∀ r, r ≠ 15 → t.reg r = s.reg r) ∧ SameBytes s t ∧ t = { s with fb := t.fb, v := t.v }

/-- R181: a DRW that would read past the top of memory raises MemoryRange with the lowest address out of range, and
draws nothing (the spec's own decision, D3). -/
def Obligations.DrwOutOfRangeRaises : Prop :=
  ∀ (x y : Reg) (n : BitVec 4) (s : State), n ≠ 0 → 4096 < s.i.toNat + n.toNat →
    exec (.drw x y n) s = .next (raised s .memoryRange (.drw x y n) (some (max s.i.toNat 4096)))

/-! ### Keypad and timers -/

/-- R202, R204, R205, encodings and effect: the timer registers as operands; nothing else changes. Writing ST turns
the tone on or off at once, which is the spec's own decision, D19. -/
def Obligations.TimerRegisterMoves : Prop :=
  ∀ (x : Reg) (s : State),
    (decode (wordXkk 0xF x 0x07) = some (.ldVxDt x) ∧
      ∃ t, exec (.ldVxDt x) s = .next t ∧ t.reg x = s.dt ∧ OnlyRegs s t [x]) ∧
    (decode (wordXkk 0xF x 0x15) = some (.ldDtVx x) ∧
      ∃ t, exec (.ldDtVx x) s = .next t ∧ t.dt = s.reg x ∧ (∀ r, t.reg r = s.reg r) ∧ SameBytes s t ∧
        t = { s with dt := t.dt }) ∧
    (decode (wordXkk 0xF x 0x18) = some (.ldStVx x) ∧
      ∃ t, exec (.ldStVx x) s = .next t ∧ t.st = s.reg x ∧ (t.tone = true ↔ s.reg x ≠ 0) ∧
        (∀ r, t.reg r = s.reg r) ∧ SameBytes s t ∧ t = { s with st := t.st })

/-- R203: LD Vx, K registers the wait on x and writes no register. -/
def Obligations.KeyWaitIsRegistered : Prop :=
  ∀ (x : Reg) (s : State),
    decode (wordXkk 0xF x 0x0A) = some (.ldVxK x) ∧
    ∃ t, exec (.ldVxK x) s = .next t ∧ t.future = .pending x ∧ (∀ r, t.reg r = s.reg r) ∧ SameBytes s t ∧
      t = { s with future := t.future }

/-- R260, R261, R255 (b): a delivered timer tick takes one from each timer, floor zero, whatever running, fault and
future hold, changes nothing else, and the tone is on exactly while ST is not zero (the spec's own decisions, D19 and
D20). -/
def Obligations.TimerTickCountsDown : Prop :=
  ∀ s : State, MoveIs s .timerTick → s.schedActive = true →
    ∃ t, step s = .next t ∧ t.dt.toNat = s.dt.toNat - 1 ∧ t.st.toNat = s.st.toNat - 1 ∧
      (t.tone = true ↔ t.st.toNat ≠ 0) ∧ t = { afterMove s with dt := t.dt, st := t.st }

/-- R263, R264, R255 (c): a key event snapshots its own key's level into prev and sets the level, at any time; no other
key and no other field changes (per-key snapshots are the spec's own decision, D17). -/
def Obligations.KeyEventsSnapshotThenSet : Prop :=
  ∀ (s : State) (k : Key) (down : Bool), MoveIs s (if down then .keyDown k else .keyUp k) →
    ∃ t, step s = .next t ∧ t.keyAt k = down ∧ t.prevAt k = s.keyAt k ∧
      (∀ j, j ≠ k → t.keyAt j = s.keyAt j ∧ t.prevAt j = s.prevAt j) ∧
      t = { afterMove s with key := t.key, prev := t.prev }

/-! ### Index register and memory -/

/-- R220, R221, R222: the three writes of I, encodings and values; no flag, no range check, nothing else changes. -/
def Obligations.IndexWrites : Prop :=
  ∀ (nnn : BitVec 12) (x : Reg) (s : State),
    (decode (wordNnn 0xA nnn) = some (.ldI nnn) ∧
      ∃ t, exec (.ldI nnn) s = .next t ∧ t.i.toNat = nnn.toNat ∧ (∀ r, t.reg r = s.reg r) ∧ SameBytes s t ∧
        t = { s with i := t.i }) ∧
    (decode (wordXkk 0xF x 0x1E) = some (.addIVx x) ∧
      ∃ t, exec (.addIVx x) s = .next t ∧ t.i.toNat = (s.i.toNat + (s.reg x).toNat) % 65536 ∧
        (∀ r, t.reg r = s.reg r) ∧ SameBytes s t ∧ t = { s with i := t.i }) ∧
    (decode (wordXkk 0xF x 0x29) = some (.ldFVx x) ∧
      ∃ t, exec (.ldFVx x) s = .next t ∧ t.i.toNat = 0x050 + 5 * (s.reg x).toNat ∧
        (∀ r, t.reg r = s.reg r) ∧ SameBytes s t ∧ t = { s with i := t.i })

/-- R223: where I to I + 2 are in memory, LD B stores hundreds, tens and ones there, and nothing else changes. -/
def Obligations.BcdStoresThreeDigits : Prop :=
  ∀ (x : Reg) (s : State), s.i.toNat + 3 ≤ 4096 →
    ∃ t, exec (.ldBVx x) s = .next t ∧
      (t.byteAt s.i.toNat).toNat = (s.reg x).toNat / 100 ∧
      (t.byteAt (s.i.toNat + 1)).toNat = (s.reg x).toNat / 10 % 10 ∧
      (t.byteAt (s.i.toNat + 2)).toNat = (s.reg x).toNat % 10 ∧
      OnlyBytes s t s.i.toNat 3

/-- R224: where I to I + x are in memory, LD [I] stores V0 to Vx there, I stays, and nothing else changes. -/
def Obligations.BlockStoreWritesRegisters : Prop :=
  ∀ (x : Reg) (s : State), s.i.toNat + x.val < 4096 →
    ∃ t, exec (.ldIVx x) s = .next t ∧ (∀ r : Reg, r ≤ x → t.byteAt (s.i.toNat + r.val) = s.reg r) ∧
      OnlyBytes s t s.i.toNat (x.val + 1)

/-- R225: where I to I + x are in memory, LD Vx, [I] loads V0 to Vx from there, I stays, and nothing else changes. -/
def Obligations.BlockLoadReadsRegisters : Prop :=
  ∀ (x : Reg) (s : State), s.i.toNat + x.val < 4096 →
    ∃ t, exec (.ldVxI x) s = .next t ∧ (∀ r : Reg, r ≤ x → t.reg r = s.byteAt (s.i.toNat + r.val)) ∧
      (∀ r : Reg, x < r → t.reg r = s.reg r) ∧ SameBytes s t ∧ t = { s with v := t.v }

/-- R223 to R225 with R252 and R253: a transfer that would pass the top of memory raises MemoryRange with the lowest
address out of range, and stores or loads nothing (the spec's own decision, D3). -/
def Obligations.TransfersOutOfRangeRaise : Prop :=
  ∀ (x : Reg) (s : State),
    (4096 < s.i.toNat + 3 →
      exec (.ldBVx x) s = .next (raised s .memoryRange (.ldBVx x) (some (max s.i.toNat 4096)))) ∧
    (4096 < s.i.toNat + (x.val + 1) →
      exec (.ldIVx x) s = .next (raised s .memoryRange (.ldIVx x) (some (max s.i.toNat 4096))) ∧
      exec (.ldVxI x) s = .next (raised s .memoryRange (.ldVxI x) (some (max s.i.toNat 4096))))

/-! ### Reset, load and the end of a run -/

/-- R301: what reset leaves in every field, whenever it arrives. The numbers that the source does not state are the
spec's own decision, D15, and the log's entry 8; memory is the next statement's. -/
def Obligations.ResetRestartsTheCore : Prop :=
  ∀ s : State, MoveIs s .reset →
    ∃ t, step s = .next t ∧ (∀ r, t.reg r = 0) ∧ t.pc = 0x200 ∧ t.i = 0 ∧ t.dt = 0 ∧ t.st = 0 ∧ t.stack = [] ∧
      t.cycleCount = 0 ∧ (∀ px py, t.fb.cell px py = false) ∧ (∀ k, t.keyAt k = false ∧ t.prevAt k = false) ∧
      t.future = .inactive ∧ t.fault = none ∧ (t.running = true ↔ s.stagedRom ≠ none) ∧
      (t.schedActive = true ↔ s.schedActive = true ∨ s.stagedRom ≠ none) ∧
      t.stagedRom = s.stagedRom ∧ t.refused = s.refused ∧ t.schedule = s.schedule.tail

/-- R303, R51, R69: after a reset, with a staged ROM that fits its region, byte i of the ROM is at 0x200 + i, the font
is in its region whatever a program stored there, and every other byte is zero; the memory is canonical. -/
def Obligations.ResetInstallsTheImage : Prop :=
  ∀ (s t : State) (rom : List Byte), MoveIs s .reset → (s.stagedRom = some rom ∨ s.stagedRom = none ∧ rom = []) →
    rom.length ≤ 3584 → step s = .next t →
    (∀ j b, rom[j]? = some b → t.byteAt (0x200 + j) = b) ∧
    (∀ j (h : j < 80), t.byteAt (0x050 + j) = s.cfg.fontGlyphs[j]) ∧
    (∀ a, (a < 0x050 ∨ (0x0A0 ≤ a ∧ a < 0x200) ∨ 0x200 + rom.length ≤ a) → t.byteAt a = 0) ∧
    Memory.wf t.cfg.fontGlyphs t.mem = true

/-- R302: load_rom stages the first 3584 bytes, starts the core and the ticks, and is otherwise the reset of the state
with that ROM staged. That only those bytes are staged is the spec's own decision, D29, and that a load clears a fault
and a key wait as a reset does is D32. -/
def Obligations.LoadIsResetOfTheNewRom : Prop :=
  ∀ (s : State) (bytes : List Byte), MoveIs s (.loadRom bytes) →
    ∃ t, step s = .next t ∧ t.stagedRom = some (bytes.take 3584) ∧ t.running = true ∧ t.schedActive = true ∧
      step { afterMove s with stagedRom := some (bytes.take 3584), schedule := .reset :: s.schedule.tail } = .next t

/-- R319: the end of a run is a state with no fault and no refusal, no wait, running, at an even pc below the top whose
two bytes are the jump to pc itself, and whose cycle cap, if there is one, is not reached. From there a delivered CPU
tick executes the self-jump: it adds one to cycle_count and clears prev, changes nothing else, and the state is at the
end of the run again unless its cycle cap is reached now. The definition is the spec's own decision, D25, and "not
reached" as `<` is D21. -/
def Obligations.EndOfRunRepeatsItself : Prop :=
  (∀ s : State, s.endOfRun = true ↔
    s.fault = none ∧ s.refused = false ∧ s.future = .inactive ∧ s.running = true ∧
    s.pc.toNat % 2 = 0 ∧ s.pc.toNat + 1 < 4096 ∧
    256 * (s.byteAt s.pc.toNat).toNat + (s.byteAt (s.pc.toNat + 1)).toNat = 0x1000 + s.pc.toNat ∧
    ∀ c, s.cfg.cycleCap = some c → s.cycleCount < c) ∧
  ∀ s : State, s.endOfRun = true → s.cpuTickNext = true → s.schedActive = true → s.cfg.quirkMode = .standard →
    ∃ t, step s = .next t ∧ t = { afterMove s with cycleCount := s.cycleCount + 1, prev := Vector.replicate 16 false } ∧
      (t.endOfRun = true ↔ ∀ c, s.cfg.cycleCap = some c → s.cycleCount + 1 < c)

/-! ### Runs under an order of moves -/

/-- R273: n steps are the first n of the moves to come, one each, the schedule's first and the free moves after it; and
every order of moves, cut anywhere, is a run of the steps from every state. The schedule and the free moves are the
model's own form of "any order the environment chooses", log 1. -/
def Obligations.StepsFollowTheEnvironment : Prop :=
  (∀ (s : State) (n : Nat), steps n s = some { s.under s.moveAt n with
    schedule := s.schedule.drop n, moveCount := s.moveCount + (n - s.schedule.length) }) ∧
  (∀ (env : Nat → Move) (s : State) (n : Nat),
    steps n { s with schedule := (List.range n).map env } = some { s.under env n with schedule := [] })

/-- R255 (b), R260, R273: under every weakly fair order of moves in which the core stays faulted and the ticks stay
delivered, both timers reach zero and stay there, and the tone is off from then on. Weak fairness is all that is assumed
of the order. That the timers run on in a faulted core is the spec's own decision, D9 and D20, the fairness is D2, and
the tone is D19. -/
def Obligations.TimersRunOutWhileFaulted : Prop :=
  ∀ (env : Nat → Move) (s : State), s.WeaklyFair env →
    (∀ n, (s.under env n).fault ≠ none ∧ (s.under env n).schedActive = true) →
    ∃ n, ∀ m, n ≤ m → (s.under env m).dt = 0 ∧ (s.under env m).st = 0 ∧ (s.under env m).tone = false
end

