-- ==== Sys2Proof/Laws/Decode.lean ====
section
/-! SUPPORT. The fields of a word laid out in each format, and a word as its fields (30_encoding.md R81, R82): what a
proof about the decoder or the encoder needs of the bits. -/

namespace Sys2Proof

/-! ### Register fields -/

@[simp] theorem regOfBits_bitsOfReg (r : Reg) : regOfBits (bitsOfReg r) = r :=
  Fin.ext (by simp only [regOfBits, bitsOfReg, BitVec.toNat_ofNat]; exact Nat.mod_eq_of_lt r.isLt)

@[simp] theorem bitsOfReg_regOfBits (b : BitVec 4) : bitsOfReg (regOfBits b) = b := by
  apply BitVec.eq_of_toNat_eq
  simp only [regOfBits, bitsOfReg, BitVec.toNat_ofNat]
  exact Nat.mod_eq_of_lt b.isLt

/-! ### The two halves of a concatenation -/

theorem extract_hi {m n : Nat} (a : BitVec m) (b : BitVec n) : (a ++ b).extractLsb' n m = a := by
  apply BitVec.eq_of_getLsbD_eq
  intro i hi
  simp [BitVec.getLsbD_append, hi]

theorem extract_lo {m n : Nat} (a : BitVec m) (b : BitVec n) : (a ++ b).extractLsb' 0 n = b := by
  apply BitVec.eq_of_getLsbD_eq
  intro i hi
  simp [BitVec.getLsbD_append, hi]

/-- A field inside the low part of a concatenation is that field of the low part. -/
theorem extract_in_lo {m n k w : Nat} (a : BitVec m) (b : BitVec n) (h : k + w ≤ n) :
    (a ++ b).extractLsb' k w = b.extractLsb' k w := by
  apply BitVec.eq_of_getLsbD_eq
  intro i hi
  have hk : k + i < n := by omega
  simp [BitVec.getLsbD_append, hi, hk]

/-! ### Fields of each format (R82) -/

@[simp] theorem opField_wordNnn (op : BitVec 4) (nnn : BitVec 12) : opField (wordNnn op nnn) = op := extract_hi op nnn

@[simp] theorem nnnField_wordNnn (op : BitVec 4) (nnn : BitVec 12) : nnnField (wordNnn op nnn) = nnn :=
  extract_lo op nnn

/-- Format XKK is format NNN with x and kk as the address (R82). -/
theorem wordXkk_eq (op : BitVec 4) (x : Reg) (kk : Byte) : wordXkk op x kk = wordNnn op (bitsOfReg x ++ kk) := rfl

/-- Format XYN is format XKK with y and n as the byte (R82). -/
theorem wordXyn_eq (op : BitVec 4) (x y : Reg) (n : BitVec 4) : wordXyn op x y n = wordXkk op x (bitsOfReg y ++ n) := rfl

@[simp] theorem opField_wordXkk (op : BitVec 4) (x : Reg) (kk : Byte) : opField (wordXkk op x kk) = op := by
  rw [wordXkk_eq, opField_wordNnn]

@[simp] theorem xField_wordXkk (op : BitVec 4) (x : Reg) (kk : Byte) : xField (wordXkk op x kk) = x := by
  have h : (wordXkk op x kk).extractLsb' 8 4 = bitsOfReg x :=
    (extract_in_lo op (bitsOfReg x ++ kk) (by omega)).trans (extract_hi (bitsOfReg x) kk)
  rw [xField, h, regOfBits_bitsOfReg]

@[simp] theorem kkField_wordXkk (op : BitVec 4) (x : Reg) (kk : Byte) : kkField (wordXkk op x kk) = kk :=
  (extract_in_lo op (bitsOfReg x ++ kk) (by omega)).trans (extract_lo (bitsOfReg x) kk)

@[simp] theorem opField_wordXyn (op : BitVec 4) (x y : Reg) (n : BitVec 4) : opField (wordXyn op x y n) = op := by
  rw [wordXyn_eq, opField_wordXkk]

@[simp] theorem xField_wordXyn (op : BitVec 4) (x y : Reg) (n : BitVec 4) : xField (wordXyn op x y n) = x := by
  rw [wordXyn_eq, xField_wordXkk]

/-- The y field is the high nibble of the low byte. -/
theorem yField_eq (w : Word16) : yField w = regOfBits ((kkField w).extractLsb' 4 4) := by
  unfold yField kkField
  congr 1
  apply BitVec.eq_of_getLsbD_eq
  intro i hi
  simp [hi]

/-- The n field is the low nibble of the low byte. -/
theorem nField_eq (w : Word16) : nField w = (kkField w).extractLsb' 0 4 := by
  unfold nField kkField
  apply BitVec.eq_of_getLsbD_eq
  intro i hi
  simp [hi]

@[simp] theorem yField_wordXyn (op : BitVec 4) (x y : Reg) (n : BitVec 4) : yField (wordXyn op x y n) = y := by
  rw [yField_eq, wordXyn_eq, kkField_wordXkk, extract_hi, regOfBits_bitsOfReg]

@[simp] theorem nField_wordXyn (op : BitVec 4) (x y : Reg) (n : BitVec 4) : nField (wordXyn op x y n) = n := by
  rw [nField_eq, wordXyn_eq, kkField_wordXkk, extract_lo]

/-! ### A word is its fields -/

theorem append_extract {m n : Nat} (w : BitVec (m + n)) : w.extractLsb' n m ++ w.extractLsb' 0 n = w := by
  apply BitVec.eq_of_getLsbD_eq
  intro i hi
  rw [BitVec.getLsbD_append]
  by_cases h : i < n
  · simp [h]
  · have h1 : i - n < m := by omega
    have h2 : n + (i - n) = i := by omega
    simp [h, h1, h2]

/-- Every word is its top nibble and its low 12 bits. -/
theorem word_eq_wordNnn (w : Word16) : wordNnn (opField w) (nnnField w) = w := append_extract (m := 4) (n := 12) w

/-- Every word is its top nibble, its x and its low byte. -/
theorem word_eq_wordXkk (w : Word16) : wordXkk (opField w) (xField w) (kkField w) = w := by
  have h : nnnField w = (bitsOfReg (xField w) ++ kkField w : BitVec 12) := by
    have hx : bitsOfReg (xField w) = (nnnField w).extractLsb' 8 4 := by
      rw [xField, bitsOfReg_regOfBits, nnnField]
      apply BitVec.eq_of_getLsbD_eq
      intro i hi
      simp [hi]
    have hk : kkField w = (nnnField w).extractLsb' 0 8 := by
      rw [kkField, nnnField]
      apply BitVec.eq_of_getLsbD_eq
      intro i hi
      simp [hi]
    rw [hx, hk]
    exact (append_extract (m := 4) (n := 8) (nnnField w)).symm
  rw [wordXkk_eq, ← h, word_eq_wordNnn]

/-- Every word is its four nibbles. -/
theorem word_eq_wordXyn (w : Word16) : wordXyn (opField w) (xField w) (yField w) (nField w) = w := by
  have h : (bitsOfReg (yField w) ++ nField w : Byte) = kkField w := by
    rw [yField_eq, nField_eq, bitsOfReg_regOfBits]
    exact append_extract (m := 4) (n := 4) (kkField w)
  rw [wordXyn_eq, h, word_eq_wordXkk]

/-! ### The decoder's first tests (R84) -/

theorem wordNnn_inj {op op' : BitVec 4} {n n' : BitVec 12} (h : wordNnn op n = wordNnn op' n') : op = op' ∧ n = n' :=
  ⟨by simpa using congrArg opField h, by simpa using congrArg nnnField h⟩

/-- A word whose top nibble is not 0 is neither CLS nor RET: it decodes by its top nibble. -/
theorem decode_of_op_ne_zero {w : Word16} (h : opField w ≠ 0#4) : decode w = decodeByOp w := by
  have h2 : w ≠ 0x00E0#16 := by rintro rfl; exact h (by decide)
  have h3 : w ≠ 0x00EE#16 := by rintro rfl; exact h (by decide)
  rw [decode, if_neg h2, if_neg h3]

/-- A word is one of the sixteen groups. -/
theorem opField_cases (w : Word16) : opField w ∈ [0#4, 1#4, 2#4, 3#4, 4#4, 5#4, 6#4, 7#4, 8#4, 9#4, 10#4, 11#4, 12#4,
    13#4, 14#4, 15#4] := by
  generalize opField w = b
  revert b; decide

/-! ### Fixed bits under each mask of R85 -/

theorem wordNnn_and_op (op : BitVec 4) (nnn : BitVec 12) : wordNnn op nnn &&& 0xF000#16 = wordNnn op 0 := by
  have h : (0xF000#16 : Word16) = wordNnn 0xF 0 := by decide
  rw [h]
  simp only [wordNnn]
  rw [BitVec.and_append]
  congr 1
  · exact BitVec.and_allOnes
  · exact BitVec.and_zero

theorem wordXkk_and_op (op : BitVec 4) (x : Reg) (kk : Byte) : wordXkk op x kk &&& 0xF000#16 = wordNnn op 0 := by
  rw [wordXkk_eq, wordNnn_and_op]

theorem wordXyn_and_op (op : BitVec 4) (x y : Reg) (n : BitVec 4) : wordXyn op x y n &&& 0xF000#16 = wordNnn op 0 := by
  rw [wordXyn_eq, wordXkk_and_op]

theorem wordXkk_and_fn8 (op : BitVec 4) (x : Reg) (kk : Byte) : wordXkk op x kk &&& 0xF0FF#16 = wordXkk op 0 kk := by
  have h : (0xF0FF#16 : Word16) = wordNnn 0xF (0x0#4 ++ 0xFF#8) := by decide
  rw [h, wordXkk_eq, wordXkk_eq]
  simp only [wordNnn]
  rw [BitVec.and_append, BitVec.and_append]
  congr 1
  · exact BitVec.and_allOnes
  · congr 1
    · exact BitVec.and_zero
    · exact BitVec.and_allOnes

theorem wordXyn_and_fn4 (op : BitVec 4) (x y : Reg) (n : BitVec 4) :
    wordXyn op x y n &&& 0xF00F#16 = wordXyn op 0 0 n := by
  have h : (0xF00F#16 : Word16) = wordNnn 0xF (0x0#4 ++ (0x0#4 ++ 0xF#4 : Byte)) := by decide
  rw [h, wordXyn_eq, wordXyn_eq, wordXkk_eq, wordXkk_eq]
  simp only [wordNnn]
  rw [BitVec.and_append, BitVec.and_append, BitVec.and_append]
  congr 1
  · exact BitVec.and_allOnes
  · congr 1
    · exact BitVec.and_zero
    · congr 1
      · exact BitVec.and_zero
      · exact BitVec.and_allOnes

/-! ### Bytes of a word (R56, R57) -/

/-- A word laid out as two bytes, high byte first, and read back big-endian is the word. -/
theorem wordOfBytes_bytes (w : Word16) : wordOfBytes (w.extractLsb' 8 8) (w.extractLsb' 0 8) = w :=
  append_extract (m := 8) (n := 8) w

end Sys2Proof
end

