-- ==== Sys2Proof/Laws/Memory.lean ====
section
/-! SUPPORT. The laws of the memory operations: a read after a write, that every operation keeps the canonical form,
and what the installed image reads as (20_memory.md R51, R54, R55, R63; 70_reset_and_hazards.md R303). -/

namespace Sys2Proof.Machine

/-! ### The list of cells -/

theorem Memory.lookup_put (m : Memory) (a c : Nat) (b : Byte) :
    (m.put a b).lookup c = if c = a then some b else m.lookup c := by
  induction m with
  | nil => simp [Memory.put, Memory.lookup, eq_comm]
  | cons e m ih =>
    obtain ⟨k, d⟩ := e
    simp only [Memory.put]
    split
    · by_cases hc : c = a
      · simp [Memory.lookup, hc]
      · simp [Memory.lookup, hc, Ne.symm hc]
    · split
      · subst k
        by_cases hc : c = a
        · simp [Memory.lookup, hc]
        · simp [Memory.lookup, hc, Ne.symm hc]
      · simp only [Memory.lookup, ih]
        by_cases hk : k = c <;> by_cases hc : c = a <;> simp_all

theorem Memory.lookup_erase (m : Memory) (a c : Nat) :
    (m.erase a).lookup c = if c = a then none else m.lookup c := by
  induction m with
  | nil => simp [Memory.erase, Memory.lookup]
  | cons e m ih =>
    obtain ⟨k, d⟩ := e
    simp only [Memory.erase]
    split
    · subst k
      by_cases hc : c = a
      · simpa [hc] using ih
      · simp [ih, Memory.lookup, hc, Ne.symm hc]
    · simp only [Memory.lookup, ih]
      by_cases hk : k = c <;> by_cases hc : c = a <;> simp_all

/-- Read after write (R63): the byte written at its address, and every other address as before. -/
@[simp] theorem Memory.read_write (g : Font) (m : Memory) (a c : Nat) (b : Byte) :
    (m.write g a b).read g c = if c = a then b else m.read g c := by
  unfold Memory.write Memory.read
  split <;> by_cases hc : c = a <;> simp_all [Memory.lookup_put, Memory.lookup_erase]

/-- An empty list reads as the reset contents everywhere. -/
@[simp] theorem Memory.read_nil (g : Font) (a : Nat) : Memory.read g [] a = Memory.unlisted g a := rfl

/-! ### The canonical form -/

theorem Memory.risingFrom_mono {lo hi : Nat} (h : lo ≤ hi) {m : Memory} (hm : risingFrom hi m = true) :
    risingFrom lo m = true := by
  cases m with
  | nil => rfl
  | cons e m => simp only [risingFrom, Bool.and_eq_true, decide_eq_true_eq] at hm ⊢; exact ⟨by omega, hm.2⟩

theorem Memory.risingFrom_put {lo a : Nat} {b : Byte} (h : lo ≤ a) {m : Memory} (hm : risingFrom lo m = true) :
    risingFrom lo (m.put a b) = true := by
  induction m generalizing lo with
  | nil => simp [put, risingFrom, h]
  | cons e m ih =>
    obtain ⟨k, d⟩ := e
    simp only [risingFrom, Bool.and_eq_true, decide_eq_true_eq] at hm
    simp only [put]
    split
    · simp only [risingFrom, Bool.and_eq_true, decide_eq_true_eq]
      exact ⟨h, by omega, hm.2⟩
    · split
      · subst k; simp [risingFrom, hm]
      · simp only [risingFrom, Bool.and_eq_true, decide_eq_true_eq]
        exact ⟨hm.1, ih (by omega) hm.2⟩

theorem Memory.risingFrom_erase {lo a : Nat} {m : Memory} (hm : risingFrom lo m = true) :
    risingFrom lo (m.erase a) = true := by
  induction m generalizing lo with
  | nil => rfl
  | cons e m ih =>
    obtain ⟨k, d⟩ := e
    simp only [risingFrom, Bool.and_eq_true, decide_eq_true_eq] at hm
    simp only [erase]
    split
    · exact risingFrom_mono (by omega) (ih hm.2)
    · simp only [risingFrom, Bool.and_eq_true, decide_eq_true_eq]; exact ⟨hm.1, ih hm.2⟩

theorem Memory.all_put {p : Host.Cell → Bool} {a : Nat} {b : Byte} (h : p (a, b) = true) {m : Memory}
    (hm : m.all p = true) : (m.put a b).all p = true := by
  induction m with
  | nil => simpa [put] using h
  | cons e m ih =>
    obtain ⟨k, d⟩ := e
    simp only [List.all_cons, Bool.and_eq_true] at hm
    simp only [put]
    split
    · simp only [List.all_cons, Bool.and_eq_true]; exact ⟨h, hm⟩
    · split
      · simp only [List.all_cons, Bool.and_eq_true]; exact ⟨h, hm.2⟩
      · simp only [List.all_cons, Bool.and_eq_true]; exact ⟨hm.1, ih hm.2⟩

theorem Memory.all_erase {p : Host.Cell → Bool} {a : Nat} {m : Memory} (hm : m.all p = true) :
    (m.erase a).all p = true := by
  induction m with
  | nil => rfl
  | cons e m ih =>
    obtain ⟨k, d⟩ := e
    simp only [List.all_cons, Bool.and_eq_true] at hm
    simp only [erase]
    split
    · exact ih hm.2
    · simp only [List.all_cons, Bool.and_eq_true]; exact ⟨hm.1, ih hm.2⟩

/-- A write inside the address space keeps the canonical form. -/
theorem Memory.wf_write {g : Font} {m : Memory} {a : Nat} {b : Byte} (ha : a < memSize) (hm : m.wf g = true) :
    (m.write g a b).wf g = true := by
  simp only [wf, Bool.and_eq_true] at hm ⊢
  unfold write
  split
  · exact ⟨risingFrom_erase hm.1, all_erase hm.2⟩
  · rename_i hb
    exact ⟨risingFrom_put (Nat.zero_le a) hm.1, all_put (by simp [cellOk, ha, hb]) hm.2⟩

/-- The empty list, the memory at construction, is canonical. -/
theorem Memory.wf_nil (g : Font) : Memory.wf g [] = true := rfl

/-! ### The installed image (R303) -/

theorem Memory.risingFrom_image (g : Font) (a : Nat) (bs : List Byte) : risingFrom a (image g a bs) = true := by
  induction bs generalizing a with
  | nil => rfl
  | cons b bs ih =>
    simp only [image]
    split
    · exact risingFrom_mono (Nat.le_succ a) (ih (a + 1))
    · simp [risingFrom, ih]

theorem Memory.all_image (g : Font) (a : Nat) (bs : List Byte) (h : a + bs.length ≤ memSize) :
    (image g a bs).all (cellOk g) = true := by
  induction bs generalizing a with
  | nil => rfl
  | cons b bs ih =>
    simp only [List.length_cons] at h
    have hr := ih (a + 1) (by omega)
    simp only [image]
    split
    · exact hr
    · rename_i hb
      have ha : a < memSize := by omega
      simpa [cellOk, hb, ha] using hr

theorem Memory.wf_image (g : Font) (a : Nat) (bs : List Byte) (h : a + bs.length ≤ memSize) :
    wf g (image g a bs) = true := by
  simp only [wf, Bool.and_eq_true]
  exact ⟨risingFrom_mono (Nat.zero_le a) (risingFrom_image g a bs), all_image g a bs h⟩

theorem Memory.lookup_of_risingFrom {lo a : Nat} (h : a < lo) {m : Memory} (hm : risingFrom lo m = true) :
    m.lookup a = none := by
  induction m generalizing lo with
  | nil => rfl
  | cons e m ih =>
    obtain ⟨k, d⟩ := e
    simp only [risingFrom, Bool.and_eq_true, decide_eq_true_eq] at hm
    have hk : k ≠ a := by omega
    simp only [lookup, hk, if_false]
    exact ih (by omega) hm.2

/-- The image reads as the run of bytes in its place and as unlisted elsewhere. -/
theorem Memory.read_image (g : Font) (a : Nat) (bs : List Byte) (c : Nat) :
    (image g a bs).read g c = if a ≤ c then (bs[c - a]?).getD (unlisted g c) else unlisted g c := by
  induction bs generalizing a with
  | nil => simp [image]
  | cons b bs ih =>
    have hlow : ∀ x ≤ a, read g (image g (a + 1) bs) x = unlisted g x := fun x hx => by
      simp [read, lookup_of_risingFrom (Nat.lt_succ_of_le hx) (risingFrom_image g (a + 1) bs)]
    have hcell : read g (if b = unlisted g a then image g (a + 1) bs else (a, b) :: image g (a + 1) bs) c
        = if c = a then b else read g (image g (a + 1) bs) c := by
      by_cases hb : b = unlisted g a
      · by_cases hc : c = a
        · subst hc; simp [hb, hlow c (Nat.le_refl c)]
        · simp [hb, hc]
      · by_cases hc : c = a
        · subst hc; simp [hb, read, lookup]
        · simp [hb, hc, read, lookup, eq_comm]
    simp only [image]
    rw [hcell, ih]
    by_cases hc : c = a
    · subst hc; simp
    · by_cases hle : a ≤ c
      · obtain ⟨d, rfl⟩ := Nat.exists_eq_add_of_lt (Nat.lt_of_le_of_ne hle (Ne.symm hc))
        have h1 : a + d + 1 - (a + 1) = d := by omega
        have h2 : a + d + 1 - a = d + 1 := by omega
        simp [hc, h1, h2, show a + 1 ≤ a + d + 1 by omega, show a ≤ a + d + 1 by omega]
      · simp [hc, hle, show ¬ a + 1 ≤ c by omega]

/-- The font is below the ROM region, so an unlisted address of the ROM region reads 0 (R51). -/
theorem Memory.unlisted_rom (g : Font) {a : Nat} (h : romBase ≤ a) : unlisted g a = 0 := by
  unfold unlisted
  rw [dif_neg (by simp only [romBase, fontBase, fontEnd] at h ⊢; omega)]

/-- The installed image is canonical where the staged ROM fits (R31, R303). -/
theorem wf_installImage (g : Font) (rom : Option (List Byte)) (h : ∀ b, rom = some b → b.length ≤ romMax) :
    Memory.wf g (installImage g rom) = true := by
  cases rom with
  | none => rfl
  | some b =>
    have hb := h b rfl
    exact Memory.wf_image g romBase b (by simp only [romBase, romMax, memSize] at *; omega)

end Sys2Proof.Machine
end

