-- ==== Sys2Proof/Laws/State.lean ====
section
/-! SUPPORT. What each update of the state leaves in each field: one lemma per field per update, true by definition
(10_state.md R20). -/

namespace Sys2Proof.Machine

variable (s : State)

/-! ### `setReg` -/

@[simp] theorem State.setReg_v (r : Reg) (b : Byte) : (s.setReg r b).v = s.v.set r.val b := rfl
@[simp] theorem State.setReg_pc (r : Reg) (b : Byte) : (s.setReg r b).pc = s.pc := rfl
@[simp] theorem State.setReg_i (r : Reg) (b : Byte) : (s.setReg r b).i = s.i := rfl
@[simp] theorem State.setReg_dt (r : Reg) (b : Byte) : (s.setReg r b).dt = s.dt := rfl
@[simp] theorem State.setReg_st (r : Reg) (b : Byte) : (s.setReg r b).st = s.st := rfl
@[simp] theorem State.setReg_stack (r : Reg) (b : Byte) : (s.setReg r b).stack = s.stack := rfl
@[simp] theorem State.setReg_running (r : Reg) (b : Byte) : (s.setReg r b).running = s.running := rfl
@[simp] theorem State.setReg_cycleCount (r : Reg) (b : Byte) : (s.setReg r b).cycleCount = s.cycleCount := rfl
@[simp] theorem State.setReg_mem (r : Reg) (b : Byte) : (s.setReg r b).mem = s.mem := rfl
@[simp] theorem State.setReg_stagedRom (r : Reg) (b : Byte) : (s.setReg r b).stagedRom = s.stagedRom := rfl
@[simp] theorem State.setReg_fb (r : Reg) (b : Byte) : (s.setReg r b).fb = s.fb := rfl
@[simp] theorem State.setReg_key (r : Reg) (b : Byte) : (s.setReg r b).key = s.key := rfl
@[simp] theorem State.setReg_prev (r : Reg) (b : Byte) : (s.setReg r b).prev = s.prev := rfl
@[simp] theorem State.setReg_future (r : Reg) (b : Byte) : (s.setReg r b).future = s.future := rfl
@[simp] theorem State.setReg_fault (r : Reg) (b : Byte) : (s.setReg r b).fault = s.fault := rfl
@[simp] theorem State.setReg_schedActive (r : Reg) (b : Byte) : (s.setReg r b).schedActive = s.schedActive := rfl
@[simp] theorem State.setReg_refused (r : Reg) (b : Byte) : (s.setReg r b).refused = s.refused := rfl
@[simp] theorem State.setReg_schedule (r : Reg) (b : Byte) : (s.setReg r b).schedule = s.schedule := rfl
@[simp] theorem State.setReg_moveCount (r : Reg) (b : Byte) : (s.setReg r b).moveCount = s.moveCount := rfl
@[simp] theorem State.setReg_rndCount (r : Reg) (b : Byte) : (s.setReg r b).rndCount = s.rndCount := rfl
@[simp] theorem State.setReg_cfg (r : Reg) (b : Byte) : (s.setReg r b).cfg = s.cfg := rfl

/-! ### `setFlag` -/

@[simp] theorem State.setFlag_v (c : Bool) : (s.setFlag c).v = s.v.set regF.val (if c then 1 else 0) := rfl
@[simp] theorem State.setFlag_pc (c : Bool) : (s.setFlag c).pc = s.pc := rfl
@[simp] theorem State.setFlag_i (c : Bool) : (s.setFlag c).i = s.i := rfl
@[simp] theorem State.setFlag_dt (c : Bool) : (s.setFlag c).dt = s.dt := rfl
@[simp] theorem State.setFlag_st (c : Bool) : (s.setFlag c).st = s.st := rfl
@[simp] theorem State.setFlag_stack (c : Bool) : (s.setFlag c).stack = s.stack := rfl
@[simp] theorem State.setFlag_running (c : Bool) : (s.setFlag c).running = s.running := rfl
@[simp] theorem State.setFlag_cycleCount (c : Bool) : (s.setFlag c).cycleCount = s.cycleCount := rfl
@[simp] theorem State.setFlag_mem (c : Bool) : (s.setFlag c).mem = s.mem := rfl
@[simp] theorem State.setFlag_stagedRom (c : Bool) : (s.setFlag c).stagedRom = s.stagedRom := rfl
@[simp] theorem State.setFlag_fb (c : Bool) : (s.setFlag c).fb = s.fb := rfl
@[simp] theorem State.setFlag_key (c : Bool) : (s.setFlag c).key = s.key := rfl
@[simp] theorem State.setFlag_prev (c : Bool) : (s.setFlag c).prev = s.prev := rfl
@[simp] theorem State.setFlag_future (c : Bool) : (s.setFlag c).future = s.future := rfl
@[simp] theorem State.setFlag_fault (c : Bool) : (s.setFlag c).fault = s.fault := rfl
@[simp] theorem State.setFlag_schedActive (c : Bool) : (s.setFlag c).schedActive = s.schedActive := rfl
@[simp] theorem State.setFlag_refused (c : Bool) : (s.setFlag c).refused = s.refused := rfl
@[simp] theorem State.setFlag_schedule (c : Bool) : (s.setFlag c).schedule = s.schedule := rfl
@[simp] theorem State.setFlag_moveCount (c : Bool) : (s.setFlag c).moveCount = s.moveCount := rfl
@[simp] theorem State.setFlag_rndCount (c : Bool) : (s.setFlag c).rndCount = s.rndCount := rfl
@[simp] theorem State.setFlag_cfg (c : Bool) : (s.setFlag c).cfg = s.cfg := rfl

/-! ### `setResultAndFlag` -/

@[simp] theorem State.setResultAndFlag_v (x : Reg) (b : Byte) (c : Bool) : (s.setResultAndFlag x b c).v = (s.v.set x.val b).set regF.val (if c then 1 else 0) := rfl
@[simp] theorem State.setResultAndFlag_pc (x : Reg) (b : Byte) (c : Bool) : (s.setResultAndFlag x b c).pc = s.pc := rfl
@[simp] theorem State.setResultAndFlag_i (x : Reg) (b : Byte) (c : Bool) : (s.setResultAndFlag x b c).i = s.i := rfl
@[simp] theorem State.setResultAndFlag_dt (x : Reg) (b : Byte) (c : Bool) : (s.setResultAndFlag x b c).dt = s.dt := rfl
@[simp] theorem State.setResultAndFlag_st (x : Reg) (b : Byte) (c : Bool) : (s.setResultAndFlag x b c).st = s.st := rfl
@[simp] theorem State.setResultAndFlag_stack (x : Reg) (b : Byte) (c : Bool) : (s.setResultAndFlag x b c).stack = s.stack := rfl
@[simp] theorem State.setResultAndFlag_running (x : Reg) (b : Byte) (c : Bool) : (s.setResultAndFlag x b c).running = s.running := rfl
@[simp] theorem State.setResultAndFlag_cycleCount (x : Reg) (b : Byte) (c : Bool) : (s.setResultAndFlag x b c).cycleCount = s.cycleCount := rfl
@[simp] theorem State.setResultAndFlag_mem (x : Reg) (b : Byte) (c : Bool) : (s.setResultAndFlag x b c).mem = s.mem := rfl
@[simp] theorem State.setResultAndFlag_stagedRom (x : Reg) (b : Byte) (c : Bool) : (s.setResultAndFlag x b c).stagedRom = s.stagedRom := rfl
@[simp] theorem State.setResultAndFlag_fb (x : Reg) (b : Byte) (c : Bool) : (s.setResultAndFlag x b c).fb = s.fb := rfl
@[simp] theorem State.setResultAndFlag_key (x : Reg) (b : Byte) (c : Bool) : (s.setResultAndFlag x b c).key = s.key := rfl
@[simp] theorem State.setResultAndFlag_prev (x : Reg) (b : Byte) (c : Bool) : (s.setResultAndFlag x b c).prev = s.prev := rfl
@[simp] theorem State.setResultAndFlag_future (x : Reg) (b : Byte) (c : Bool) : (s.setResultAndFlag x b c).future = s.future := rfl
@[simp] theorem State.setResultAndFlag_fault (x : Reg) (b : Byte) (c : Bool) : (s.setResultAndFlag x b c).fault = s.fault := rfl
@[simp] theorem State.setResultAndFlag_schedActive (x : Reg) (b : Byte) (c : Bool) : (s.setResultAndFlag x b c).schedActive = s.schedActive := rfl
@[simp] theorem State.setResultAndFlag_refused (x : Reg) (b : Byte) (c : Bool) : (s.setResultAndFlag x b c).refused = s.refused := rfl
@[simp] theorem State.setResultAndFlag_schedule (x : Reg) (b : Byte) (c : Bool) : (s.setResultAndFlag x b c).schedule = s.schedule := rfl
@[simp] theorem State.setResultAndFlag_moveCount (x : Reg) (b : Byte) (c : Bool) : (s.setResultAndFlag x b c).moveCount = s.moveCount := rfl
@[simp] theorem State.setResultAndFlag_rndCount (x : Reg) (b : Byte) (c : Bool) : (s.setResultAndFlag x b c).rndCount = s.rndCount := rfl
@[simp] theorem State.setResultAndFlag_cfg (x : Reg) (b : Byte) (c : Bool) : (s.setResultAndFlag x b c).cfg = s.cfg := rfl

/-! ### `setByte` -/

@[simp] theorem State.setByte_v (a : Nat) (b : Byte) : (s.setByte a b).v = s.v := rfl
@[simp] theorem State.setByte_pc (a : Nat) (b : Byte) : (s.setByte a b).pc = s.pc := rfl
@[simp] theorem State.setByte_i (a : Nat) (b : Byte) : (s.setByte a b).i = s.i := rfl
@[simp] theorem State.setByte_dt (a : Nat) (b : Byte) : (s.setByte a b).dt = s.dt := rfl
@[simp] theorem State.setByte_st (a : Nat) (b : Byte) : (s.setByte a b).st = s.st := rfl
@[simp] theorem State.setByte_stack (a : Nat) (b : Byte) : (s.setByte a b).stack = s.stack := rfl
@[simp] theorem State.setByte_running (a : Nat) (b : Byte) : (s.setByte a b).running = s.running := rfl
@[simp] theorem State.setByte_cycleCount (a : Nat) (b : Byte) : (s.setByte a b).cycleCount = s.cycleCount := rfl
@[simp] theorem State.setByte_mem (a : Nat) (b : Byte) : (s.setByte a b).mem = Memory.write s.cfg.fontGlyphs s.mem a b := rfl
@[simp] theorem State.setByte_stagedRom (a : Nat) (b : Byte) : (s.setByte a b).stagedRom = s.stagedRom := rfl
@[simp] theorem State.setByte_fb (a : Nat) (b : Byte) : (s.setByte a b).fb = s.fb := rfl
@[simp] theorem State.setByte_key (a : Nat) (b : Byte) : (s.setByte a b).key = s.key := rfl
@[simp] theorem State.setByte_prev (a : Nat) (b : Byte) : (s.setByte a b).prev = s.prev := rfl
@[simp] theorem State.setByte_future (a : Nat) (b : Byte) : (s.setByte a b).future = s.future := rfl
@[simp] theorem State.setByte_fault (a : Nat) (b : Byte) : (s.setByte a b).fault = s.fault := rfl
@[simp] theorem State.setByte_schedActive (a : Nat) (b : Byte) : (s.setByte a b).schedActive = s.schedActive := rfl
@[simp] theorem State.setByte_refused (a : Nat) (b : Byte) : (s.setByte a b).refused = s.refused := rfl
@[simp] theorem State.setByte_schedule (a : Nat) (b : Byte) : (s.setByte a b).schedule = s.schedule := rfl
@[simp] theorem State.setByte_moveCount (a : Nat) (b : Byte) : (s.setByte a b).moveCount = s.moveCount := rfl
@[simp] theorem State.setByte_rndCount (a : Nat) (b : Byte) : (s.setByte a b).rndCount = s.rndCount := rfl
@[simp] theorem State.setByte_cfg (a : Nat) (b : Byte) : (s.setByte a b).cfg = s.cfg := rfl

/-! ### `advance` -/

@[simp] theorem State.advance_v : s.advance.v = s.v := rfl
@[simp] theorem State.advance_pc : s.advance.pc = s.pc + 2 := rfl
@[simp] theorem State.advance_i : s.advance.i = s.i := rfl
@[simp] theorem State.advance_dt : s.advance.dt = s.dt := rfl
@[simp] theorem State.advance_st : s.advance.st = s.st := rfl
@[simp] theorem State.advance_stack : s.advance.stack = s.stack := rfl
@[simp] theorem State.advance_running : s.advance.running = s.running := rfl
@[simp] theorem State.advance_cycleCount : s.advance.cycleCount = s.cycleCount := rfl
@[simp] theorem State.advance_mem : s.advance.mem = s.mem := rfl
@[simp] theorem State.advance_stagedRom : s.advance.stagedRom = s.stagedRom := rfl
@[simp] theorem State.advance_fb : s.advance.fb = s.fb := rfl
@[simp] theorem State.advance_key : s.advance.key = s.key := rfl
@[simp] theorem State.advance_prev : s.advance.prev = s.prev := rfl
@[simp] theorem State.advance_future : s.advance.future = s.future := rfl
@[simp] theorem State.advance_fault : s.advance.fault = s.fault := rfl
@[simp] theorem State.advance_schedActive : s.advance.schedActive = s.schedActive := rfl
@[simp] theorem State.advance_refused : s.advance.refused = s.refused := rfl
@[simp] theorem State.advance_schedule : s.advance.schedule = s.schedule := rfl
@[simp] theorem State.advance_moveCount : s.advance.moveCount = s.moveCount := rfl
@[simp] theorem State.advance_rndCount : s.advance.rndCount = s.rndCount := rfl
@[simp] theorem State.advance_cfg : s.advance.cfg = s.cfg := rfl

/-! ### `push` -/

@[simp] theorem State.push_v (a : Word16) : (s.push a).v = s.v := rfl
@[simp] theorem State.push_pc (a : Word16) : (s.push a).pc = s.pc := rfl
@[simp] theorem State.push_i (a : Word16) : (s.push a).i = s.i := rfl
@[simp] theorem State.push_dt (a : Word16) : (s.push a).dt = s.dt := rfl
@[simp] theorem State.push_st (a : Word16) : (s.push a).st = s.st := rfl
@[simp] theorem State.push_stack (a : Word16) : (s.push a).stack = s.stack ++ [a] := rfl
@[simp] theorem State.push_running (a : Word16) : (s.push a).running = s.running := rfl
@[simp] theorem State.push_cycleCount (a : Word16) : (s.push a).cycleCount = s.cycleCount := rfl
@[simp] theorem State.push_mem (a : Word16) : (s.push a).mem = s.mem := rfl
@[simp] theorem State.push_stagedRom (a : Word16) : (s.push a).stagedRom = s.stagedRom := rfl
@[simp] theorem State.push_fb (a : Word16) : (s.push a).fb = s.fb := rfl
@[simp] theorem State.push_key (a : Word16) : (s.push a).key = s.key := rfl
@[simp] theorem State.push_prev (a : Word16) : (s.push a).prev = s.prev := rfl
@[simp] theorem State.push_future (a : Word16) : (s.push a).future = s.future := rfl
@[simp] theorem State.push_fault (a : Word16) : (s.push a).fault = s.fault := rfl
@[simp] theorem State.push_schedActive (a : Word16) : (s.push a).schedActive = s.schedActive := rfl
@[simp] theorem State.push_refused (a : Word16) : (s.push a).refused = s.refused := rfl
@[simp] theorem State.push_schedule (a : Word16) : (s.push a).schedule = s.schedule := rfl
@[simp] theorem State.push_moveCount (a : Word16) : (s.push a).moveCount = s.moveCount := rfl
@[simp] theorem State.push_rndCount (a : Word16) : (s.push a).rndCount = s.rndCount := rfl
@[simp] theorem State.push_cfg (a : Word16) : (s.push a).cfg = s.cfg := rfl

/-! ### `dropTop` -/

@[simp] theorem State.dropTop_v : s.dropTop.v = s.v := rfl
@[simp] theorem State.dropTop_pc : s.dropTop.pc = s.pc := rfl
@[simp] theorem State.dropTop_i : s.dropTop.i = s.i := rfl
@[simp] theorem State.dropTop_dt : s.dropTop.dt = s.dt := rfl
@[simp] theorem State.dropTop_st : s.dropTop.st = s.st := rfl
@[simp] theorem State.dropTop_stack : s.dropTop.stack = s.stack.dropLast := rfl
@[simp] theorem State.dropTop_running : s.dropTop.running = s.running := rfl
@[simp] theorem State.dropTop_cycleCount : s.dropTop.cycleCount = s.cycleCount := rfl
@[simp] theorem State.dropTop_mem : s.dropTop.mem = s.mem := rfl
@[simp] theorem State.dropTop_stagedRom : s.dropTop.stagedRom = s.stagedRom := rfl
@[simp] theorem State.dropTop_fb : s.dropTop.fb = s.fb := rfl
@[simp] theorem State.dropTop_key : s.dropTop.key = s.key := rfl
@[simp] theorem State.dropTop_prev : s.dropTop.prev = s.prev := rfl
@[simp] theorem State.dropTop_future : s.dropTop.future = s.future := rfl
@[simp] theorem State.dropTop_fault : s.dropTop.fault = s.fault := rfl
@[simp] theorem State.dropTop_schedActive : s.dropTop.schedActive = s.schedActive := rfl
@[simp] theorem State.dropTop_refused : s.dropTop.refused = s.refused := rfl
@[simp] theorem State.dropTop_schedule : s.dropTop.schedule = s.schedule := rfl
@[simp] theorem State.dropTop_moveCount : s.dropTop.moveCount = s.moveCount := rfl
@[simp] theorem State.dropTop_rndCount : s.dropTop.rndCount = s.rndCount := rfl
@[simp] theorem State.dropTop_cfg : s.dropTop.cfg = s.cfg := rfl

/-! ### `takeFault` -/

@[simp] theorem State.takeFault_v (p : Word16) (c : Fault) (w : Option Word16) (a : Option Nat) : (s.takeFault p c w a).v = s.v := rfl
@[simp] theorem State.takeFault_pc (p : Word16) (c : Fault) (w : Option Word16) (a : Option Nat) : (s.takeFault p c w a).pc = p := rfl
@[simp] theorem State.takeFault_i (p : Word16) (c : Fault) (w : Option Word16) (a : Option Nat) : (s.takeFault p c w a).i = s.i := rfl
@[simp] theorem State.takeFault_dt (p : Word16) (c : Fault) (w : Option Word16) (a : Option Nat) : (s.takeFault p c w a).dt = s.dt := rfl
@[simp] theorem State.takeFault_st (p : Word16) (c : Fault) (w : Option Word16) (a : Option Nat) : (s.takeFault p c w a).st = s.st := rfl
@[simp] theorem State.takeFault_stack (p : Word16) (c : Fault) (w : Option Word16) (a : Option Nat) : (s.takeFault p c w a).stack = s.stack := rfl
@[simp] theorem State.takeFault_running (p : Word16) (c : Fault) (w : Option Word16) (a : Option Nat) : (s.takeFault p c w a).running = s.running := rfl
@[simp] theorem State.takeFault_cycleCount (p : Word16) (c : Fault) (w : Option Word16) (a : Option Nat) : (s.takeFault p c w a).cycleCount = s.cycleCount := rfl
@[simp] theorem State.takeFault_mem (p : Word16) (c : Fault) (w : Option Word16) (a : Option Nat) : (s.takeFault p c w a).mem = s.mem := rfl
@[simp] theorem State.takeFault_stagedRom (p : Word16) (c : Fault) (w : Option Word16) (a : Option Nat) : (s.takeFault p c w a).stagedRom = s.stagedRom := rfl
@[simp] theorem State.takeFault_fb (p : Word16) (c : Fault) (w : Option Word16) (a : Option Nat) : (s.takeFault p c w a).fb = s.fb := rfl
@[simp] theorem State.takeFault_key (p : Word16) (c : Fault) (w : Option Word16) (a : Option Nat) : (s.takeFault p c w a).key = s.key := rfl
@[simp] theorem State.takeFault_prev (p : Word16) (c : Fault) (w : Option Word16) (a : Option Nat) : (s.takeFault p c w a).prev = s.prev := rfl
@[simp] theorem State.takeFault_future (p : Word16) (c : Fault) (w : Option Word16) (a : Option Nat) : (s.takeFault p c w a).future = s.future := rfl
@[simp] theorem State.takeFault_fault (p : Word16) (c : Fault) (w : Option Word16) (a : Option Nat) : (s.takeFault p c w a).fault = some { cause := c, pc := p, word := w, addr := a } := rfl
@[simp] theorem State.takeFault_schedActive (p : Word16) (c : Fault) (w : Option Word16) (a : Option Nat) : (s.takeFault p c w a).schedActive = s.schedActive := rfl
@[simp] theorem State.takeFault_refused (p : Word16) (c : Fault) (w : Option Word16) (a : Option Nat) : (s.takeFault p c w a).refused = s.refused := rfl
@[simp] theorem State.takeFault_schedule (p : Word16) (c : Fault) (w : Option Word16) (a : Option Nat) : (s.takeFault p c w a).schedule = s.schedule := rfl
@[simp] theorem State.takeFault_moveCount (p : Word16) (c : Fault) (w : Option Word16) (a : Option Nat) : (s.takeFault p c w a).moveCount = s.moveCount := rfl
@[simp] theorem State.takeFault_rndCount (p : Word16) (c : Fault) (w : Option Word16) (a : Option Nat) : (s.takeFault p c w a).rndCount = s.rndCount := rfl
@[simp] theorem State.takeFault_cfg (p : Word16) (c : Fault) (w : Option Word16) (a : Option Nat) : (s.takeFault p c w a).cfg = s.cfg := rfl

/-! ### `timerTick` -/

@[simp] theorem State.timerTick_v : s.timerTick.v = s.v := rfl
@[simp] theorem State.timerTick_pc : s.timerTick.pc = s.pc := rfl
@[simp] theorem State.timerTick_i : s.timerTick.i = s.i := rfl
@[simp] theorem State.timerTick_dt : s.timerTick.dt = countDown s.dt := rfl
@[simp] theorem State.timerTick_st : s.timerTick.st = countDown s.st := rfl
@[simp] theorem State.timerTick_stack : s.timerTick.stack = s.stack := rfl
@[simp] theorem State.timerTick_running : s.timerTick.running = s.running := rfl
@[simp] theorem State.timerTick_cycleCount : s.timerTick.cycleCount = s.cycleCount := rfl
@[simp] theorem State.timerTick_mem : s.timerTick.mem = s.mem := rfl
@[simp] theorem State.timerTick_stagedRom : s.timerTick.stagedRom = s.stagedRom := rfl
@[simp] theorem State.timerTick_fb : s.timerTick.fb = s.fb := rfl
@[simp] theorem State.timerTick_key : s.timerTick.key = s.key := rfl
@[simp] theorem State.timerTick_prev : s.timerTick.prev = s.prev := rfl
@[simp] theorem State.timerTick_future : s.timerTick.future = s.future := rfl
@[simp] theorem State.timerTick_fault : s.timerTick.fault = s.fault := rfl
@[simp] theorem State.timerTick_schedActive : s.timerTick.schedActive = s.schedActive := rfl
@[simp] theorem State.timerTick_refused : s.timerTick.refused = s.refused := rfl
@[simp] theorem State.timerTick_schedule : s.timerTick.schedule = s.schedule := rfl
@[simp] theorem State.timerTick_moveCount : s.timerTick.moveCount = s.moveCount := rfl
@[simp] theorem State.timerTick_rndCount : s.timerTick.rndCount = s.rndCount := rfl
@[simp] theorem State.timerTick_cfg : s.timerTick.cfg = s.cfg := rfl

/-! ### `keyDown` -/

@[simp] theorem State.keyDown_v (k : Key) : (s.keyDown k).v = s.v := rfl
@[simp] theorem State.keyDown_pc (k : Key) : (s.keyDown k).pc = s.pc := rfl
@[simp] theorem State.keyDown_i (k : Key) : (s.keyDown k).i = s.i := rfl
@[simp] theorem State.keyDown_dt (k : Key) : (s.keyDown k).dt = s.dt := rfl
@[simp] theorem State.keyDown_st (k : Key) : (s.keyDown k).st = s.st := rfl
@[simp] theorem State.keyDown_stack (k : Key) : (s.keyDown k).stack = s.stack := rfl
@[simp] theorem State.keyDown_running (k : Key) : (s.keyDown k).running = s.running := rfl
@[simp] theorem State.keyDown_cycleCount (k : Key) : (s.keyDown k).cycleCount = s.cycleCount := rfl
@[simp] theorem State.keyDown_mem (k : Key) : (s.keyDown k).mem = s.mem := rfl
@[simp] theorem State.keyDown_stagedRom (k : Key) : (s.keyDown k).stagedRom = s.stagedRom := rfl
@[simp] theorem State.keyDown_fb (k : Key) : (s.keyDown k).fb = s.fb := rfl
@[simp] theorem State.keyDown_key (k : Key) : (s.keyDown k).key = s.key.set k.val true := rfl
@[simp] theorem State.keyDown_prev (k : Key) : (s.keyDown k).prev = s.prev.set k.val (s.keyAt k) := rfl
@[simp] theorem State.keyDown_future (k : Key) : (s.keyDown k).future = s.future := rfl
@[simp] theorem State.keyDown_fault (k : Key) : (s.keyDown k).fault = s.fault := rfl
@[simp] theorem State.keyDown_schedActive (k : Key) : (s.keyDown k).schedActive = s.schedActive := rfl
@[simp] theorem State.keyDown_refused (k : Key) : (s.keyDown k).refused = s.refused := rfl
@[simp] theorem State.keyDown_schedule (k : Key) : (s.keyDown k).schedule = s.schedule := rfl
@[simp] theorem State.keyDown_moveCount (k : Key) : (s.keyDown k).moveCount = s.moveCount := rfl
@[simp] theorem State.keyDown_rndCount (k : Key) : (s.keyDown k).rndCount = s.rndCount := rfl
@[simp] theorem State.keyDown_cfg (k : Key) : (s.keyDown k).cfg = s.cfg := rfl

/-! ### `keyUp` -/

@[simp] theorem State.keyUp_v (k : Key) : (s.keyUp k).v = s.v := rfl
@[simp] theorem State.keyUp_pc (k : Key) : (s.keyUp k).pc = s.pc := rfl
@[simp] theorem State.keyUp_i (k : Key) : (s.keyUp k).i = s.i := rfl
@[simp] theorem State.keyUp_dt (k : Key) : (s.keyUp k).dt = s.dt := rfl
@[simp] theorem State.keyUp_st (k : Key) : (s.keyUp k).st = s.st := rfl
@[simp] theorem State.keyUp_stack (k : Key) : (s.keyUp k).stack = s.stack := rfl
@[simp] theorem State.keyUp_running (k : Key) : (s.keyUp k).running = s.running := rfl
@[simp] theorem State.keyUp_cycleCount (k : Key) : (s.keyUp k).cycleCount = s.cycleCount := rfl
@[simp] theorem State.keyUp_mem (k : Key) : (s.keyUp k).mem = s.mem := rfl
@[simp] theorem State.keyUp_stagedRom (k : Key) : (s.keyUp k).stagedRom = s.stagedRom := rfl
@[simp] theorem State.keyUp_fb (k : Key) : (s.keyUp k).fb = s.fb := rfl
@[simp] theorem State.keyUp_key (k : Key) : (s.keyUp k).key = s.key.set k.val false := rfl
@[simp] theorem State.keyUp_prev (k : Key) : (s.keyUp k).prev = s.prev.set k.val (s.keyAt k) := rfl
@[simp] theorem State.keyUp_future (k : Key) : (s.keyUp k).future = s.future := rfl
@[simp] theorem State.keyUp_fault (k : Key) : (s.keyUp k).fault = s.fault := rfl
@[simp] theorem State.keyUp_schedActive (k : Key) : (s.keyUp k).schedActive = s.schedActive := rfl
@[simp] theorem State.keyUp_refused (k : Key) : (s.keyUp k).refused = s.refused := rfl
@[simp] theorem State.keyUp_schedule (k : Key) : (s.keyUp k).schedule = s.schedule := rfl
@[simp] theorem State.keyUp_moveCount (k : Key) : (s.keyUp k).moveCount = s.moveCount := rfl
@[simp] theorem State.keyUp_rndCount (k : Key) : (s.keyUp k).rndCount = s.rndCount := rfl
@[simp] theorem State.keyUp_cfg (k : Key) : (s.keyUp k).cfg = s.cfg := rfl

/-! ### `clearPrevious` -/

@[simp] theorem State.clearPrevious_v : s.clearPrevious.v = s.v := rfl
@[simp] theorem State.clearPrevious_pc : s.clearPrevious.pc = s.pc := rfl
@[simp] theorem State.clearPrevious_i : s.clearPrevious.i = s.i := rfl
@[simp] theorem State.clearPrevious_dt : s.clearPrevious.dt = s.dt := rfl
@[simp] theorem State.clearPrevious_st : s.clearPrevious.st = s.st := rfl
@[simp] theorem State.clearPrevious_stack : s.clearPrevious.stack = s.stack := rfl
@[simp] theorem State.clearPrevious_running : s.clearPrevious.running = s.running := rfl
@[simp] theorem State.clearPrevious_cycleCount : s.clearPrevious.cycleCount = s.cycleCount := rfl
@[simp] theorem State.clearPrevious_mem : s.clearPrevious.mem = s.mem := rfl
@[simp] theorem State.clearPrevious_stagedRom : s.clearPrevious.stagedRom = s.stagedRom := rfl
@[simp] theorem State.clearPrevious_fb : s.clearPrevious.fb = s.fb := rfl
@[simp] theorem State.clearPrevious_key : s.clearPrevious.key = s.key := rfl
@[simp] theorem State.clearPrevious_prev : s.clearPrevious.prev = Vector.replicate 16 false := rfl
@[simp] theorem State.clearPrevious_future : s.clearPrevious.future = s.future := rfl
@[simp] theorem State.clearPrevious_fault : s.clearPrevious.fault = s.fault := rfl
@[simp] theorem State.clearPrevious_schedActive : s.clearPrevious.schedActive = s.schedActive := rfl
@[simp] theorem State.clearPrevious_refused : s.clearPrevious.refused = s.refused := rfl
@[simp] theorem State.clearPrevious_schedule : s.clearPrevious.schedule = s.schedule := rfl
@[simp] theorem State.clearPrevious_moveCount : s.clearPrevious.moveCount = s.moveCount := rfl
@[simp] theorem State.clearPrevious_rndCount : s.clearPrevious.rndCount = s.rndCount := rfl
@[simp] theorem State.clearPrevious_cfg : s.clearPrevious.cfg = s.cfg := rfl

/-! ### `retire` -/

@[simp] theorem State.retire_v : s.retire.v = s.v := rfl
@[simp] theorem State.retire_pc : s.retire.pc = s.pc := rfl
@[simp] theorem State.retire_i : s.retire.i = s.i := rfl
@[simp] theorem State.retire_dt : s.retire.dt = s.dt := rfl
@[simp] theorem State.retire_st : s.retire.st = s.st := rfl
@[simp] theorem State.retire_stack : s.retire.stack = s.stack := rfl
@[simp] theorem State.retire_running : s.retire.running = s.running := rfl
@[simp] theorem State.retire_cycleCount : s.retire.cycleCount = s.cycleCount + 1 := rfl
@[simp] theorem State.retire_mem : s.retire.mem = s.mem := rfl
@[simp] theorem State.retire_stagedRom : s.retire.stagedRom = s.stagedRom := rfl
@[simp] theorem State.retire_fb : s.retire.fb = s.fb := rfl
@[simp] theorem State.retire_key : s.retire.key = s.key := rfl
@[simp] theorem State.retire_prev : s.retire.prev = Vector.replicate 16 false := rfl
@[simp] theorem State.retire_future : s.retire.future = s.future := rfl
@[simp] theorem State.retire_fault : s.retire.fault = s.fault := rfl
@[simp] theorem State.retire_schedActive : s.retire.schedActive = s.schedActive := rfl
@[simp] theorem State.retire_refused : s.retire.refused = s.refused := rfl
@[simp] theorem State.retire_schedule : s.retire.schedule = s.schedule := rfl
@[simp] theorem State.retire_moveCount : s.retire.moveCount = s.moveCount := rfl
@[simp] theorem State.retire_rndCount : s.retire.rndCount = s.rndCount := rfl
@[simp] theorem State.retire_cfg : s.retire.cfg = s.cfg := rfl

/-! ### `refuse` -/

@[simp] theorem State.refuse_v : s.refuse.v = s.v := rfl
@[simp] theorem State.refuse_pc : s.refuse.pc = s.pc := rfl
@[simp] theorem State.refuse_i : s.refuse.i = s.i := rfl
@[simp] theorem State.refuse_dt : s.refuse.dt = s.dt := rfl
@[simp] theorem State.refuse_st : s.refuse.st = s.st := rfl
@[simp] theorem State.refuse_stack : s.refuse.stack = s.stack := rfl
@[simp] theorem State.refuse_running : s.refuse.running = s.running := rfl
@[simp] theorem State.refuse_cycleCount : s.refuse.cycleCount = s.cycleCount := rfl
@[simp] theorem State.refuse_mem : s.refuse.mem = s.mem := rfl
@[simp] theorem State.refuse_stagedRom : s.refuse.stagedRom = s.stagedRom := rfl
@[simp] theorem State.refuse_fb : s.refuse.fb = s.fb := rfl
@[simp] theorem State.refuse_key : s.refuse.key = s.key := rfl
@[simp] theorem State.refuse_prev : s.refuse.prev = s.prev := rfl
@[simp] theorem State.refuse_future : s.refuse.future = s.future := rfl
@[simp] theorem State.refuse_fault : s.refuse.fault = s.fault := rfl
@[simp] theorem State.refuse_schedActive : s.refuse.schedActive = s.schedActive := rfl
@[simp] theorem State.refuse_refused : s.refuse.refused = true := rfl
@[simp] theorem State.refuse_schedule : s.refuse.schedule = s.schedule := rfl
@[simp] theorem State.refuse_moveCount : s.refuse.moveCount = s.moveCount := rfl
@[simp] theorem State.refuse_rndCount : s.refuse.rndCount = s.rndCount := rfl
@[simp] theorem State.refuse_cfg : s.refuse.cfg = s.cfg := rfl

/-! ### `startTicks` -/

@[simp] theorem State.startTicks_v : s.startTicks.v = s.v := rfl
@[simp] theorem State.startTicks_pc : s.startTicks.pc = s.pc := rfl
@[simp] theorem State.startTicks_i : s.startTicks.i = s.i := rfl
@[simp] theorem State.startTicks_dt : s.startTicks.dt = s.dt := rfl
@[simp] theorem State.startTicks_st : s.startTicks.st = s.st := rfl
@[simp] theorem State.startTicks_stack : s.startTicks.stack = s.stack := rfl
@[simp] theorem State.startTicks_running : s.startTicks.running = s.running := rfl
@[simp] theorem State.startTicks_cycleCount : s.startTicks.cycleCount = s.cycleCount := rfl
@[simp] theorem State.startTicks_mem : s.startTicks.mem = s.mem := rfl
@[simp] theorem State.startTicks_stagedRom : s.startTicks.stagedRom = s.stagedRom := rfl
@[simp] theorem State.startTicks_fb : s.startTicks.fb = s.fb := rfl
@[simp] theorem State.startTicks_key : s.startTicks.key = s.key := rfl
@[simp] theorem State.startTicks_prev : s.startTicks.prev = s.prev := rfl
@[simp] theorem State.startTicks_future : s.startTicks.future = s.future := rfl
@[simp] theorem State.startTicks_fault : s.startTicks.fault = s.fault := rfl
@[simp] theorem State.startTicks_schedActive : s.startTicks.schedActive = true := rfl
@[simp] theorem State.startTicks_refused : s.startTicks.refused = s.refused := rfl
@[simp] theorem State.startTicks_schedule : s.startTicks.schedule = s.schedule := rfl
@[simp] theorem State.startTicks_moveCount : s.startTicks.moveCount = s.moveCount := rfl
@[simp] theorem State.startTicks_rndCount : s.startTicks.rndCount = s.rndCount := rfl
@[simp] theorem State.startTicks_cfg : s.startTicks.cfg = s.cfg := rfl

/-! ### `stopTicks` -/

@[simp] theorem State.stopTicks_v : s.stopTicks.v = s.v := rfl
@[simp] theorem State.stopTicks_pc : s.stopTicks.pc = s.pc := rfl
@[simp] theorem State.stopTicks_i : s.stopTicks.i = s.i := rfl
@[simp] theorem State.stopTicks_dt : s.stopTicks.dt = s.dt := rfl
@[simp] theorem State.stopTicks_st : s.stopTicks.st = s.st := rfl
@[simp] theorem State.stopTicks_stack : s.stopTicks.stack = s.stack := rfl
@[simp] theorem State.stopTicks_running : s.stopTicks.running = s.running := rfl
@[simp] theorem State.stopTicks_cycleCount : s.stopTicks.cycleCount = s.cycleCount := rfl
@[simp] theorem State.stopTicks_mem : s.stopTicks.mem = s.mem := rfl
@[simp] theorem State.stopTicks_stagedRom : s.stopTicks.stagedRom = s.stagedRom := rfl
@[simp] theorem State.stopTicks_fb : s.stopTicks.fb = s.fb := rfl
@[simp] theorem State.stopTicks_key : s.stopTicks.key = s.key := rfl
@[simp] theorem State.stopTicks_prev : s.stopTicks.prev = s.prev := rfl
@[simp] theorem State.stopTicks_future : s.stopTicks.future = s.future := rfl
@[simp] theorem State.stopTicks_fault : s.stopTicks.fault = s.fault := rfl
@[simp] theorem State.stopTicks_schedActive : s.stopTicks.schedActive = false := rfl
@[simp] theorem State.stopTicks_refused : s.stopTicks.refused = s.refused := rfl
@[simp] theorem State.stopTicks_schedule : s.stopTicks.schedule = s.schedule := rfl
@[simp] theorem State.stopTicks_moveCount : s.stopTicks.moveCount = s.moveCount := rfl
@[simp] theorem State.stopTicks_rndCount : s.stopTicks.rndCount = s.rndCount := rfl
@[simp] theorem State.stopTicks_cfg : s.stopTicks.cfg = s.cfg := rfl

/-! ### `resetCore` -/

@[simp] theorem State.resetCore_v : s.resetCore.v = Vector.replicate 16 0 := rfl
@[simp] theorem State.resetCore_pc : s.resetCore.pc = 0x200 := rfl
@[simp] theorem State.resetCore_i : s.resetCore.i = 0 := rfl
@[simp] theorem State.resetCore_dt : s.resetCore.dt = 0 := rfl
@[simp] theorem State.resetCore_st : s.resetCore.st = 0 := rfl
@[simp] theorem State.resetCore_stack : s.resetCore.stack = [] := rfl
@[simp] theorem State.resetCore_running : s.resetCore.running = s.stagedRom.isSome := rfl
@[simp] theorem State.resetCore_cycleCount : s.resetCore.cycleCount = 0 := rfl
@[simp] theorem State.resetCore_mem : s.resetCore.mem = installImage s.cfg.fontGlyphs s.stagedRom := rfl
@[simp] theorem State.resetCore_stagedRom : s.resetCore.stagedRom = s.stagedRom := rfl
@[simp] theorem State.resetCore_fb : s.resetCore.fb = Framebuffer.off := rfl
@[simp] theorem State.resetCore_key : s.resetCore.key = Vector.replicate 16 false := rfl
@[simp] theorem State.resetCore_prev : s.resetCore.prev = Vector.replicate 16 false := rfl
@[simp] theorem State.resetCore_future : s.resetCore.future = .inactive := rfl
@[simp] theorem State.resetCore_fault : s.resetCore.fault = none := rfl
@[simp] theorem State.resetCore_schedActive : s.resetCore.schedActive = (s.schedActive || s.stagedRom.isSome) := rfl
@[simp] theorem State.resetCore_refused : s.resetCore.refused = s.refused := rfl
@[simp] theorem State.resetCore_schedule : s.resetCore.schedule = s.schedule := rfl
@[simp] theorem State.resetCore_moveCount : s.resetCore.moveCount = s.moveCount := rfl
@[simp] theorem State.resetCore_rndCount : s.resetCore.rndCount = s.rndCount := rfl
@[simp] theorem State.resetCore_cfg : s.resetCore.cfg = s.cfg := rfl

/-! ### `loadRom` -/

@[simp] theorem State.loadRom_v (bs : List Byte) : (s.loadRom bs).v = Vector.replicate 16 0 := rfl
@[simp] theorem State.loadRom_pc (bs : List Byte) : (s.loadRom bs).pc = 0x200 := rfl
@[simp] theorem State.loadRom_i (bs : List Byte) : (s.loadRom bs).i = 0 := rfl
@[simp] theorem State.loadRom_dt (bs : List Byte) : (s.loadRom bs).dt = 0 := rfl
@[simp] theorem State.loadRom_st (bs : List Byte) : (s.loadRom bs).st = 0 := rfl
@[simp] theorem State.loadRom_stack (bs : List Byte) : (s.loadRom bs).stack = [] := rfl
@[simp] theorem State.loadRom_running (bs : List Byte) : (s.loadRom bs).running = true := rfl
@[simp] theorem State.loadRom_cycleCount (bs : List Byte) : (s.loadRom bs).cycleCount = 0 := rfl
@[simp] theorem State.loadRom_mem (bs : List Byte) : (s.loadRom bs).mem = installImage s.cfg.fontGlyphs (some (bs.take romMax)) := rfl
@[simp] theorem State.loadRom_stagedRom (bs : List Byte) : (s.loadRom bs).stagedRom = some (bs.take romMax) := rfl
@[simp] theorem State.loadRom_fb (bs : List Byte) : (s.loadRom bs).fb = Framebuffer.off := rfl
@[simp] theorem State.loadRom_key (bs : List Byte) : (s.loadRom bs).key = Vector.replicate 16 false := rfl
@[simp] theorem State.loadRom_prev (bs : List Byte) : (s.loadRom bs).prev = Vector.replicate 16 false := rfl
@[simp] theorem State.loadRom_future (bs : List Byte) : (s.loadRom bs).future = .inactive := rfl
@[simp] theorem State.loadRom_fault (bs : List Byte) : (s.loadRom bs).fault = none := rfl
@[simp] theorem State.loadRom_schedActive (bs : List Byte) : (s.loadRom bs).schedActive = true := rfl
@[simp] theorem State.loadRom_refused (bs : List Byte) : (s.loadRom bs).refused = s.refused := rfl
@[simp] theorem State.loadRom_schedule (bs : List Byte) : (s.loadRom bs).schedule = s.schedule := rfl
@[simp] theorem State.loadRom_moveCount (bs : List Byte) : (s.loadRom bs).moveCount = s.moveCount := rfl
@[simp] theorem State.loadRom_rndCount (bs : List Byte) : (s.loadRom bs).rndCount = s.rndCount := rfl
@[simp] theorem State.loadRom_cfg (bs : List Byte) : (s.loadRom bs).cfg = s.cfg := rfl

/-! ### `skipIf` -/

@[simp] theorem State.skipIf_v (c : Bool) : (s.skipIf c).v = s.v := by cases c <;> rfl
@[simp] theorem State.skipIf_pc (c : Bool) : (s.skipIf c).pc = if c then s.pc + 2 else s.pc := by
  cases c <;> rfl
@[simp] theorem State.skipIf_i (c : Bool) : (s.skipIf c).i = s.i := by cases c <;> rfl
@[simp] theorem State.skipIf_dt (c : Bool) : (s.skipIf c).dt = s.dt := by cases c <;> rfl
@[simp] theorem State.skipIf_st (c : Bool) : (s.skipIf c).st = s.st := by cases c <;> rfl
@[simp] theorem State.skipIf_stack (c : Bool) : (s.skipIf c).stack = s.stack := by cases c <;> rfl
@[simp] theorem State.skipIf_running (c : Bool) : (s.skipIf c).running = s.running := by cases c <;> rfl
@[simp] theorem State.skipIf_cycleCount (c : Bool) : (s.skipIf c).cycleCount = s.cycleCount := by cases c <;> rfl
@[simp] theorem State.skipIf_mem (c : Bool) : (s.skipIf c).mem = s.mem := by cases c <;> rfl
@[simp] theorem State.skipIf_stagedRom (c : Bool) : (s.skipIf c).stagedRom = s.stagedRom := by cases c <;> rfl
@[simp] theorem State.skipIf_fb (c : Bool) : (s.skipIf c).fb = s.fb := by cases c <;> rfl
@[simp] theorem State.skipIf_key (c : Bool) : (s.skipIf c).key = s.key := by cases c <;> rfl
@[simp] theorem State.skipIf_prev (c : Bool) : (s.skipIf c).prev = s.prev := by cases c <;> rfl
@[simp] theorem State.skipIf_future (c : Bool) : (s.skipIf c).future = s.future := by cases c <;> rfl
@[simp] theorem State.skipIf_fault (c : Bool) : (s.skipIf c).fault = s.fault := by cases c <;> rfl
@[simp] theorem State.skipIf_schedActive (c : Bool) : (s.skipIf c).schedActive = s.schedActive := by cases c <;> rfl
@[simp] theorem State.skipIf_refused (c : Bool) : (s.skipIf c).refused = s.refused := by cases c <;> rfl
@[simp] theorem State.skipIf_schedule (c : Bool) : (s.skipIf c).schedule = s.schedule := by cases c <;> rfl
@[simp] theorem State.skipIf_moveCount (c : Bool) : (s.skipIf c).moveCount = s.moveCount := by cases c <;> rfl
@[simp] theorem State.skipIf_rndCount (c : Bool) : (s.skipIf c).rndCount = s.rndCount := by cases c <;> rfl
@[simp] theorem State.skipIf_cfg (c : Bool) : (s.skipIf c).cfg = s.cfg := by cases c <;> rfl

end Sys2Proof.Machine
end

