-- ==== Sys2Proof/Laws/Ops.lean ====
section
/-! SUPPORT. One lemma per shared operation that says everything it can do: registers, byte runs, block transfers,
truncation, raising, and the moves of the machine. A proof about an instruction cites these and unfolds only the
instruction's own meaning. -/

namespace Sys2Proof.Machine

/-! ### Registers -/

/-- A register read after a register write (R21). -/
@[simp] theorem State.reg_setReg (s : State) (r q : Reg) (b : Byte) :
    (s.setReg r b).reg q = if q = r then b else s.reg q := by
  simp only [State.reg, State.setReg]
  by_cases h : q = r
  · subst h; simp
  · have hv : r.val ≠ q.val := fun e => h (Fin.ext e.symm)
    rw [Vector.getElem_set_ne _ _ hv]; simp [h]

/-- A register read after a flag write: VF is the flag, every other register as before (R22). -/
@[simp] theorem State.reg_setFlag (s : State) (c : Bool) (q : Reg) :
    (s.setFlag c).reg q = if q = regF then (if c then 1 else 0) else s.reg q := by simp [State.setFlag]

/-- A register read after a result and a flag: the flag wins where x = F (R120). -/
theorem State.reg_setResultAndFlag (s : State) (x q : Reg) (b : Byte) (c : Bool) :
    (s.setResultAndFlag x b c).reg q = if q = regF then (if c then 1 else 0) else if q = x then b else s.reg q := by
  simp [State.setResultAndFlag]

/-- Two states with the same registers read the same. -/
theorem State.reg_congr {s t : State} (h : t.v = s.v) (q : Reg) : t.reg q = s.reg q := by simp only [State.reg, h]

/-! ### Memory of a state -/

/-- A byte read after a byte write (R63). -/
@[simp] theorem State.byteAt_setByte (s : State) (a c : Nat) (b : Byte) :
    (s.setByte a b).byteAt c = if c = a then b else s.byteAt c := by simp [State.byteAt]

/-- Two states with the same memory and the same font read the same. -/
theorem State.byteAt_congr {s t : State} (hm : t.mem = s.mem) (hc : t.cfg = s.cfg) (a : Nat) :
    t.byteAt a = s.byteAt a := by simp only [State.byteAt, hm, hc]

/-- A run of reads that stays inside the address space answers the bytes (R54); one that is empty reads nothing. -/
theorem State.readBytes_ok (s : State) (a n : Nat) (h : n = 0 ∨ a + n ≤ memSize) :
    s.readBytes a n = .ok ((List.range n).map fun r => s.byteAt (a + r)) := by
  induction n generalizing a with
  | zero => rfl
  | succ n ih =>
    have hb : a + (n + 1) ≤ memSize := by omega
    have ha : a < memSize := by omega
    have := ih (a + 1) (by omega)
    simp [State.readBytes, State.memRead, ha, this, List.range_succ_eq_map, Nat.add_assoc, Nat.add_comm 1]

/-- A run of reads that leaves the address space answers the lowest address outside it (R252). -/
theorem State.readBytes_error (s : State) (a n : Nat) (hn : n ≠ 0) (h : memSize < a + n) :
    s.readBytes a n = .error (max a memSize) := by
  induction n generalizing a with
  | zero => exact absurd rfl hn
  | succ n ih =>
    by_cases ha : a < memSize
    · have h0 : n ≠ 0 := by omega
      have := ih (a + 1) h0 (by omega)
      have hm : max (a + 1) memSize = max a memSize := by simp only [memSize] at *; omega
      rw [hm] at this
      simp [State.readBytes, State.memRead, ha, this]
    · have hm : max a memSize = a := by simp only [memSize] at *; omega
      rw [hm]
      simp [State.readBytes, State.memRead, ha]

/-- A run of writes that stays inside the address space stores each byte at its place and touches nothing else; the
memory keeps its canonical form (R55). -/
theorem State.writeBytes_ok (s : State) (a : Nat) (bs : List Byte) (h : bs = [] ∨ a + bs.length ≤ memSize) :
    ∃ t, s.writeBytes a bs = .ok t ∧ t = { s with mem := t.mem } ∧
      (∀ c, t.byteAt c = if a ≤ c then (bs[c - a]?).getD (s.byteAt c) else s.byteAt c) ∧
      (Memory.wf s.cfg.fontGlyphs s.mem = true → Memory.wf s.cfg.fontGlyphs t.mem = true) := by
  induction bs generalizing a s with
  | nil => exact ⟨s, rfl, rfl, by simp, id⟩
  | cons b bs ih =>
    have hb : a + (bs.length + 1) ≤ memSize := by simpa using h
    have ha : a < memSize := by omega
    obtain ⟨t, ht, hframe, hread, hwf⟩ := ih (s.setByte a b) (a + 1) (by omega)
    refine ⟨t, by simp [State.writeBytes, State.memWrite, ha, ht], ?_, fun c => ?_, fun hs => ?_⟩
    · rw [hframe]; rfl
    · rw [hread c]
      rcases Nat.lt_trichotomy c a with hc | hc | hc
      · have h1 : ¬ a ≤ c := by omega
        have h2 : ¬ a + 1 ≤ c := by omega
        have h3 : c ≠ a := by omega
        simp [h1, h2, h3]
      · subst hc; simp
      · obtain ⟨d, rfl⟩ := Nat.exists_eq_add_of_lt hc
        have h1 : a + d + 1 - (a + 1) = d := by omega
        have h2 : a + d + 1 - a = d + 1 := by omega
        have h3 : a + 1 ≤ a + d + 1 := by omega
        have h4 : a ≤ a + d + 1 := by omega
        have h5 : a + d + 1 ≠ a := by omega
        simp [h1, h2, h3, h4, h5]
    · exact hwf (Memory.wf_write ha hs)

/-- A run of writes that leaves the address space answers the lowest address outside it (R252). -/
theorem State.writeBytes_error (s : State) (a : Nat) (bs : List Byte) (hn : bs ≠ []) (h : memSize < a + bs.length) :
    s.writeBytes a bs = .error (max a memSize) := by
  induction bs generalizing a s with
  | nil => exact absurd rfl hn
  | cons b bs ih =>
    simp only [List.length_cons] at h
    by_cases ha : a < memSize
    · have h0 : bs ≠ [] := by rintro rfl; simp at h; omega
      have := ih (s.setByte a b) (a + 1) h0 (by omega)
      have hm : max (a + 1) memSize = max a memSize := by simp only [memSize] at *; omega
      rw [hm] at this
      simp [State.writeBytes, State.memWrite, ha, this]
    · have hm : max a memSize = a := by simp only [memSize] at *; omega
      rw [hm]
      simp [State.writeBytes, State.memWrite, ha]

/-! ### Block transfers (R41) -/

@[simp] theorem State.regsTo_length (s : State) (t : Reg) : (s.regsTo t).length = t.val + 1 := by simp [State.regsTo]

/-- Entry r of the registers up to Vt is Vr. -/
theorem State.regsTo_getElem? (s : State) (t : Reg) (r : Reg) (h : r ≤ t) : (s.regsTo t)[r.val]? = some (s.reg r) := by
  have hr : r.val < t.val + 1 := Nat.lt_succ_of_le h
  simp [State.regsTo, List.getElem?_map, List.getElem?_range hr]

/-- Loading a run of registers changes the registers alone. -/
theorem State.loadRegs_frame (s : State) (r : Nat) (bs : List Byte) :
    s.loadRegs r bs = { s with v := (s.loadRegs r bs).v } := by
  induction bs generalizing s r with
  | nil => rfl
  | cons b bs ih => rw [State.loadRegs, ih]; rfl

/-- Loading a run of registers from number r on: each takes its byte, every other register stays (R225). -/
theorem State.reg_loadRegs (s : State) (r : Nat) (bs : List Byte) (h : r + bs.length ≤ 16) (q : Reg) :
    (s.loadRegs r bs).reg q = if r ≤ q.val then (bs[q.val - r]?).getD (s.reg q) else s.reg q := by
  induction bs generalizing s r with
  | nil => simp [State.loadRegs]
  | cons b bs ih =>
    simp only [List.length_cons] at h
    have hr : (Fin.ofNat 16 r).val = r := Nat.mod_eq_of_lt (by omega)
    rw [State.loadRegs, ih _ _ (by omega)]
    rcases Nat.lt_trichotomy q.val r with hc | hc | hc
    · have h1 : ¬ r ≤ q.val := by omega
      have h2 : ¬ r + 1 ≤ q.val := by omega
      have h3 : q ≠ Fin.ofNat 16 r := fun e => by rw [e, hr] at hc; omega
      rw [if_neg h1, if_neg h2, State.reg_setReg, if_neg h3]
    · have h3 : q = Fin.ofNat 16 r := Fin.ext (by rw [hr, hc])
      have h2 : ¬ r + 1 ≤ q.val := by omega
      rw [if_neg h2, if_pos (by omega), hc, Nat.sub_self, State.reg_setReg, if_pos h3]; rfl
    · obtain ⟨d, hd⟩ := Nat.exists_eq_add_of_lt hc
      have h1 : q.val - (r + 1) = d := by omega
      have h2 : q.val - r = d + 1 := by omega
      have h3 : r + 1 ≤ q.val := by omega
      have h4 : r ≤ q.val := by omega
      have h5 : q ≠ Fin.ofNat 16 r := fun e => by rw [e, hr] at hc; omega
      rw [if_pos h3, if_pos h4, State.reg_setReg, if_neg h5, h1, h2]; rfl

/-! ### Truncation (R10) -/

/-- Truncating a natural number to a byte keeps its low eight bits. -/
theorem trunc8_natCast (n : Nat) : trunc8 (n : Int) = BitVec.ofNat 8 n := by simp [trunc8]

/-- A wrapping sum of bytes is the sum of the machine words. -/
theorem trunc8_add (a b : Byte) : trunc8 ((a.toNat + b.toNat : Nat) : Int) = a + b := by
  rw [trunc8_natCast]; apply BitVec.eq_of_toNat_eq; simp

/-- The same with the cast pushed to the operands. -/
@[simp] theorem trunc8_add_cast (a b : Byte) : trunc8 ((a.toNat : Int) + b.toNat) = a + b := by
  rw [← trunc8_add]; simp

/-- A wrapping difference of bytes is the difference of the machine words. -/
@[simp] theorem trunc8_sub (a b : Byte) : trunc8 ((a.toNat : Int) - b.toNat) = a - b := by
  apply BitVec.eq_of_toNat_eq
  have ha := a.isLt
  have hb := b.isLt
  simp only [trunc8, BitVec.toNat_ofInt, BitVec.toNat_sub]
  omega

/-- Truncating a natural number to a word keeps its low sixteen bits. -/
theorem trunc16_natCast (n : Nat) : trunc16 (n : Int) = BitVec.ofNat 16 n := by simp [trunc16]

/-! ### Raising (R253) -/

/-- A raise answers the state before the instruction, with the record: no case is left in which it does not. -/
theorem State.raise_eq (s : State) (c : Fault) (w : Word16) (a : Option Nat) :
    s.raise c w a = .next { s with
      pc := s.pc - 2, fault := some { cause := c, pc := s.pc - 2, word := some w, addr := a } } := rfl

/-- The fetch advance is undone by a raise: pc is pc0 again. -/
theorem State.instrAddr_advance (s : State) : s.advance.instrAddr = s.pc := by
  simp [State.instrAddr]

/-- What a raise of the instruction fetched at `s.pc` leaves: the state before the tick, with the record (R253). -/
theorem State.raise_advance (s : State) (c : Fault) (w : Word16) (a : Option Nat) :
    s.advance.raise c w a = .next (s.takeFault s.pc c (some w) a) := by
  rw [State.raise, State.instrAddr_advance]; rfl

/-! ### Keys (R265) -/

/-- The scan order is every key once, ascending. -/
theorem mem_allKeys (k : Key) : k ∈ allKeys := by revert k; decide

theorem allKeys_sorted : allKeys.Pairwise (· < ·) := by decide

/-- The scan finds a key only where it has a release edge. -/
theorem State.released_of_keyReleased {s : State} {k : Key} (h : s.keyReleased = some k) : s.released k = true :=
  List.find?_some h

/-- The scan finds nothing exactly when no key has a release edge. -/
theorem State.keyReleased_none {s : State} : s.keyReleased = none ↔ ∀ k, s.released k = false := by
  simp only [State.keyReleased, List.find?_eq_none, Bool.not_eq_true]
  exact ⟨fun h k => h k (mem_allKeys k), fun h k _ => h k⟩

/-- A poll writes the target register and ends the wait, or changes nothing (R267). -/
theorem State.pollKeyWait_cases (s : State) (t : Reg) :
    (∃ k, s.keyReleased = some k ∧ s.pollKeyWait t = { s.setReg t (BitVec.ofNat 8 k.val) with future := .inactive }) ∨
    (s.keyReleased = none ∧ s.pollKeyWait t = s) := by
  unfold State.pollKeyWait
  cases h : s.keyReleased with
  | some k => exact .inl ⟨k, rfl, rfl⟩
  | none => exact .inr ⟨rfl, rfl⟩

end Sys2Proof.Machine
end

