-- ==== Sys2Proof/Laws/Display.lean ====
section
/-! SUPPORT. What writing a cell does, and what drawing a sprite does: it changes exactly the cells the sprite covers,
and its collision bit says whether one of them was on (43_display.md R181 to R184). -/

namespace Sys2Proof.Machine

/-- A cell read after a cell write (R32). -/
theorem Framebuffer.cell_setCell (fb : Framebuffer) (x q : Fin 64) (y p : Fin 32) (b : Bool) :
    (fb.setCell x y b).cell q p = if q = x ∧ p = y then b else fb.cell q p := by
  simp only [Framebuffer.cell, Framebuffer.setCell]
  by_cases hp : p = y
  · subst hp
    by_cases hq : q = x
    · subst hq; simp
    · have hv : x.val ≠ q.val := fun e => hq (Fin.ext e.symm)
      simp only [Vector.getElem_set_self, hq, false_and, if_false]
      exact Vector.getElem_set_ne _ _ hv
  · have hv : y.val ≠ p.val := fun e => hp (Fin.ext e.symm)
    simp only [hp, and_false, if_false]
    exact congrArg (fun row : Vector Bool 64 => row[q.val]) (Vector.getElem_set_ne _ _ hv)

/-- A cell after the XOR of one set sprite bit (R181, R183). -/
theorem Blit.cell_pixel (t : Blit) (x q : Fin 64) (y p : Fin 32) :
    (t.pixel x y).fb.cell q p = if q = x ∧ p = y then !t.fb.cell x y else t.fb.cell q p :=
  Framebuffer.cell_setCell _ _ _ _ _ _

/-- The cell (q, p) is under a set bit of the sprite row `b`, at one of the column offsets `cs`, in display row `py`. -/
def rowCovers (b : Byte) (x0 : Nat) (py : Fin 32) (cs : List Nat) (q : Fin 64) (p : Fin 32) : Prop :=
  p = py ∧ ∃ c ∈ cs, spriteBit b c = true ∧ q = spriteCol x0 c

/-- The cell (q, p) is under a set bit of one of the sprite rows `bs`, the first of which is row offset `r`. -/
def rowsCover (x0 y0 : Nat) (bs : List Byte) (r : Nat) (q : Fin 64) (p : Fin 32) : Prop :=
  ∃ k b, bs[k]? = some b ∧ rowCovers b x0 (spriteRow y0 (r + k)) spriteCols q p

/-- A drawing changes exactly the cells of `cov`, and its collision bit says whether one of them was on before. -/
structure Draws (t u : Blit) (cov : Fin 64 → Fin 32 → Prop) : Prop where
  cells : ∀ q p, u.fb.cell q p ≠ t.fb.cell q p ↔ cov q p
  hit : u.hit = true ↔ t.hit = true ∨ ∃ q p, t.fb.cell q p = true ∧ cov q p

/-- Drawing nothing. -/
theorem Draws.nothing (t : Blit) {cov : Fin 64 → Fin 32 → Prop} (h : ∀ q p, ¬ cov q p) : Draws t t cov :=
  ⟨fun q p => by simp [h q p], by simp [h]⟩

/-- One sprite bit draws its own cell. -/
theorem Draws.pixel (t : Blit) (x : Fin 64) (y : Fin 32) : Draws t (t.pixel x y) (fun q p => q = x ∧ p = y) := by
  refine ⟨fun q p => ?_, by simp [Blit.pixel]⟩
  rw [Blit.cell_pixel]
  by_cases h : q = x ∧ p = y
  · obtain ⟨rfl, rfl⟩ := h; simp
  · simp [h]

/-- Two drawings of disjoint sets of cells draw their union. -/
theorem Draws.trans {t u w : Blit} {c d e : Fin 64 → Fin 32 → Prop} (h1 : Draws t u c) (h2 : Draws u w d)
    (hd : ∀ q p, d q p → ¬ c q p) (he : ∀ q p, e q p ↔ c q p ∨ d q p) : Draws t w e := by
  have hs : ∀ q p, d q p → u.fb.cell q p = t.fb.cell q p := fun q p h => by
    simpa using (h1.cells q p).not.2 (hd q p h)
  constructor
  · intro q p
    rw [he]
    by_cases h : d q p
    · rw [← hs q p h, h2.cells]; simp [h]
    · have := (h2.cells q p).not.2 h
      simp only [ne_eq, not_not] at this
      rw [this, h1.cells]; simp [h]
  · rw [h2.hit, h1.hit]
    constructor
    · rintro ((h | ⟨q, p, h, hc⟩) | ⟨q, p, h, hc⟩)
      · exact .inl h
      · exact .inr ⟨q, p, h, (he q p).2 (.inl hc)⟩
      · exact .inr ⟨q, p, (hs q p hc).symm.trans h, (he q p).2 (.inr hc)⟩
    · rintro (h | ⟨q, p, h, hc⟩)
      · exact .inl (.inl h)
      · rcases (he q p).1 hc with hc | hc
        · exact .inl (.inr ⟨q, p, h, hc⟩)
        · exact .inr ⟨q, p, (hs q p hc).trans h, hc⟩

/-- One sprite row draws the cells under its set bits: eight columns never meet on a display 64 wide (R181, R182). -/
theorem Blit.row_draws (b : Byte) (x0 : Nat) (py : Fin 32) (cs : List Nat) (hn : cs.Nodup) (h8 : ∀ c ∈ cs, c < 8)
    (t : Blit) : Draws t (Blit.row b x0 py cs t) (rowCovers b x0 py cs) := by
  induction cs generalizing t with
  | nil => exact .nothing t (by simp [rowCovers])
  | cons c cs ih =>
    have hc := List.nodup_cons.1 hn
    have ih' := ih hc.2 fun d hd => h8 d (List.mem_cons_of_mem c hd)
    rw [Blit.row]
    by_cases hb : spriteBit b c = true
    · rw [if_pos hb]
      refine (Draws.pixel t (spriteCol x0 c) py).trans (ih' _) ?_ ?_
      · rintro q p ⟨-, d, hd, -, rfl⟩ ⟨e, -⟩
        have h1 := h8 c List.mem_cons_self
        have h2 := h8 d (List.mem_cons_of_mem c hd)
        have hv := congrArg Fin.val e
        simp only [spriteCol, Fin.ofNat] at hv
        have : d = c := by omega
        exact hc.1 (this ▸ hd)
      · intro q p
        simp only [rowCovers, List.mem_cons]
        constructor
        · rintro ⟨rfl, d, rfl | hd, h, rfl⟩
          · exact .inl ⟨rfl, rfl⟩
          · exact .inr ⟨rfl, d, hd, h, rfl⟩
        · rintro (⟨rfl, rfl⟩ | ⟨rfl, d, hd, h, rfl⟩)
          · exact ⟨rfl, c, .inl rfl, hb, rfl⟩
          · exact ⟨rfl, d, .inr hd, h, rfl⟩
    · rw [if_neg hb]
      have he : rowCovers b x0 py (c :: cs) = rowCovers b x0 py cs := by
        funext q p; simp [rowCovers, hb]
      rw [he]; exact ih' t

/-- The sprite rows draw the cells under their set bits: at most 15 rows never meet on a display 32 high (R181,
R182). -/
theorem Blit.rows_draws (x0 y0 : Nat) (bs : List Byte) (r : Nat) (h : r + bs.length ≤ 32) (t : Blit) :
    Draws t (Blit.rows x0 y0 bs r t) (rowsCover x0 y0 bs r) := by
  induction bs generalizing r t with
  | nil => exact .nothing t (by simp [rowsCover])
  | cons b bs ih =>
    simp only [List.length_cons] at h
    rw [Blit.rows]
    refine (Blit.row_draws b x0 (spriteRow y0 r) spriteCols (by decide) (by decide) t).trans (ih (r + 1) (by omega) _) ?_ ?_
    · rintro q p ⟨k, c, hk, h1, -⟩ ⟨h2, -⟩
      have hlt : k < bs.length := (List.getElem?_eq_some_iff.1 hk).1
      rw [h1] at h2
      have hv := congrArg Fin.val h2
      simp only [spriteRow, Fin.ofNat] at hv
      omega
    · intro q p
      constructor
      · rintro ⟨k, c, hk, hc⟩
        cases k with
        | zero => cases hk; exact .inl hc
        | succ k => exact .inr ⟨k, c, hk, by rwa [show r + 1 + k = r + (k + 1) by omega]⟩
      · rintro (hc | ⟨k, c, hk, hc⟩)
        · exact ⟨0, b, rfl, hc⟩
        · exact ⟨k + 1, c, hk, by rwa [show r + (k + 1) = r + 1 + k by omega]⟩

/-- Drawing a sprite of at most 32 rows: exactly the covered cells change, and the collision bit says whether one of
them was on (R181 to R184). -/
theorem drawSprite_draws (bs : List Byte) (x0 y0 : Nat) (fb : Framebuffer) (h : bs.length ≤ 32) :
    Draws { fb := fb, hit := false } (drawSprite bs x0 y0 fb) (rowsCover x0 y0 bs 0) :=
  Blit.rows_draws x0 y0 bs 0 (by omega) _

end Sys2Proof.Machine
end

