-- ==== Sys2Proof/Laws/PerInstr.lean ====
section
/-! SUPPORT. The family EncodesItsRow: the word of a well-formed instruction matches its own row of the opcode map
(30_encoding.md R84, R85), one lemma per constructor of Instr. -/

namespace Sys2Proof.Laws.EncodesItsRow

/-- The word of a well-formed instruction matches the row of R85 that bears the instruction's mnemonic. -/
def Statement (i : Instr) : Prop :=
  i.wellFormed = true → ∃ r ∈ opcodeTable, r.mnemonic = i.mnemonic ∧ r.matchesWord (encode i) = true

/-- A row without exclusions matches a word whose bits under the mask are the pattern. -/
theorem of_and {i : Instr} (r : OpcodeRow) (hr : r ∈ opcodeTable) (hm : r.mnemonic = i.mnemonic)
    (hx : r.exclude = []) (h : encode i &&& r.mask = r.pattern) : Statement i := by
  intro _
  exact ⟨r, hr, hm, by simp [OpcodeRow.matchesWord, h, hx]⟩

theorem cls : Statement (.cls) :=
  of_and ⟨"CLS", 0x00E0, 0xFFFF, []⟩ (by decide) rfl rfl (by decide)

theorem ret : Statement (.ret) :=
  of_and ⟨"RET", 0x00EE, 0xFFFF, []⟩ (by decide) rfl rfl (by decide)

theorem sys (nnn : BitVec 12) : Statement (.sys nnn) := by
  intro h
  refine ⟨⟨"SYS", 0x0000, 0xF000, [0x00E0, 0x00EE]⟩, by decide, rfl, ?_⟩
  have h0 : wordNnn 0#4 nnn &&& 0xF000#16 = 0x0000#16 := wordNnn_and_op _ nnn
  have hne : ∀ m : BitVec 12, nnn ≠ m → wordNnn 0#4 nnn ≠ wordNnn 0#4 m := fun m hm e =>
    hm (by simpa using congrArg nnnField e)
  simp only [Instr.wellFormed, Bool.and_eq_true, bne_iff_ne] at h
  have h1 : wordNnn 0#4 nnn ≠ 0x00E0#16 := hne 0x0E0 h.1
  have h2 : wordNnn 0#4 nnn ≠ 0x00EE#16 := hne 0x0EE h.2
  simp [OpcodeRow.matchesWord, encode, h0, h1, h2]

theorem jp (nnn : BitVec 12) : Statement (.jp nnn) :=
  of_and ⟨"JP", 0x1000, 0xF000, []⟩ (by decide) rfl rfl (wordNnn_and_op _ nnn)

theorem jpV0 (nnn : BitVec 12) : Statement (.jpV0 nnn) :=
  of_and ⟨"JP_V0", 0xB000, 0xF000, []⟩ (by decide) rfl rfl (wordNnn_and_op _ nnn)

theorem call (nnn : BitVec 12) : Statement (.call nnn) :=
  of_and ⟨"CALL", 0x2000, 0xF000, []⟩ (by decide) rfl rfl (wordNnn_and_op _ nnn)

theorem seVxKk (x : Reg) (kk : Byte) : Statement (.seVxKk x kk) :=
  of_and ⟨"SE_VX_KK", 0x3000, 0xF000, []⟩ (by decide) rfl rfl (wordXkk_and_op _ x kk)

theorem sneVxKk (x : Reg) (kk : Byte) : Statement (.sneVxKk x kk) :=
  of_and ⟨"SNE_VX_KK", 0x4000, 0xF000, []⟩ (by decide) rfl rfl (wordXkk_and_op _ x kk)

theorem seVxVy (x : Reg) (y : Reg) : Statement (.seVxVy x y) :=
  of_and ⟨"SE_VX_VY", 0x5000, 0xF00F, []⟩ (by decide) rfl rfl (wordXyn_and_fn4 _ x y _)

theorem sneVxVy (x : Reg) (y : Reg) : Statement (.sneVxVy x y) :=
  of_and ⟨"SNE_VX_VY", 0x9000, 0xF00F, []⟩ (by decide) rfl rfl (wordXyn_and_fn4 _ x y _)

theorem ldVxKk (x : Reg) (kk : Byte) : Statement (.ldVxKk x kk) :=
  of_and ⟨"LD_VX_KK", 0x6000, 0xF000, []⟩ (by decide) rfl rfl (wordXkk_and_op _ x kk)

theorem ldVxVy (x : Reg) (y : Reg) : Statement (.ldVxVy x y) :=
  of_and ⟨"LD_VX_VY", 0x8000, 0xF00F, []⟩ (by decide) rfl rfl (wordXyn_and_fn4 _ x y _)

theorem addVxKk (x : Reg) (kk : Byte) : Statement (.addVxKk x kk) :=
  of_and ⟨"ADD_VX_KK", 0x7000, 0xF000, []⟩ (by decide) rfl rfl (wordXkk_and_op _ x kk)

theorem orVxVy (x : Reg) (y : Reg) : Statement (.orVxVy x y) :=
  of_and ⟨"OR_VX_VY", 0x8001, 0xF00F, []⟩ (by decide) rfl rfl (wordXyn_and_fn4 _ x y _)

theorem andVxVy (x : Reg) (y : Reg) : Statement (.andVxVy x y) :=
  of_and ⟨"AND_VX_VY", 0x8002, 0xF00F, []⟩ (by decide) rfl rfl (wordXyn_and_fn4 _ x y _)

theorem xorVxVy (x : Reg) (y : Reg) : Statement (.xorVxVy x y) :=
  of_and ⟨"XOR_VX_VY", 0x8003, 0xF00F, []⟩ (by decide) rfl rfl (wordXyn_and_fn4 _ x y _)

theorem addVxVy (x : Reg) (y : Reg) : Statement (.addVxVy x y) :=
  of_and ⟨"ADD_VX_VY", 0x8004, 0xF00F, []⟩ (by decide) rfl rfl (wordXyn_and_fn4 _ x y _)

theorem subVxVy (x : Reg) (y : Reg) : Statement (.subVxVy x y) :=
  of_and ⟨"SUB_VX_VY", 0x8005, 0xF00F, []⟩ (by decide) rfl rfl (wordXyn_and_fn4 _ x y _)

theorem subnVxVy (x : Reg) (y : Reg) : Statement (.subnVxVy x y) :=
  of_and ⟨"SUBN_VX_VY", 0x8007, 0xF00F, []⟩ (by decide) rfl rfl (wordXyn_and_fn4 _ x y _)

theorem shrVx (x : Reg) (y : Reg) : Statement (.shrVx x y) :=
  of_and ⟨"SHR_VX", 0x8006, 0xF00F, []⟩ (by decide) rfl rfl (wordXyn_and_fn4 _ x y _)

theorem shlVx (x : Reg) (y : Reg) : Statement (.shlVx x y) :=
  of_and ⟨"SHL_VX", 0x800E, 0xF00F, []⟩ (by decide) rfl rfl (wordXyn_and_fn4 _ x y _)

theorem rndVx (x : Reg) (kk : Byte) : Statement (.rndVx x kk) :=
  of_and ⟨"RND_VX", 0xC000, 0xF000, []⟩ (by decide) rfl rfl (wordXkk_and_op _ x kk)

theorem drw (x : Reg) (y : Reg) (n : BitVec 4) : Statement (.drw x y n) :=
  of_and ⟨"DRW", 0xD000, 0xF000, []⟩ (by decide) rfl rfl (wordXyn_and_op _ x y n)

theorem skpVx (x : Reg) : Statement (.skpVx x) :=
  of_and ⟨"SKP_VX", 0xE09E, 0xF0FF, []⟩ (by decide) rfl rfl (wordXkk_and_fn8 _ x _)

theorem sknpVx (x : Reg) : Statement (.sknpVx x) :=
  of_and ⟨"SKNP_VX", 0xE0A1, 0xF0FF, []⟩ (by decide) rfl rfl (wordXkk_and_fn8 _ x _)

theorem ldVxDt (x : Reg) : Statement (.ldVxDt x) :=
  of_and ⟨"LD_VX_DT", 0xF007, 0xF0FF, []⟩ (by decide) rfl rfl (wordXkk_and_fn8 _ x _)

theorem ldVxK (x : Reg) : Statement (.ldVxK x) :=
  of_and ⟨"LD_VX_K", 0xF00A, 0xF0FF, []⟩ (by decide) rfl rfl (wordXkk_and_fn8 _ x _)

theorem ldDtVx (x : Reg) : Statement (.ldDtVx x) :=
  of_and ⟨"LD_DT_VX", 0xF015, 0xF0FF, []⟩ (by decide) rfl rfl (wordXkk_and_fn8 _ x _)

theorem ldStVx (x : Reg) : Statement (.ldStVx x) :=
  of_and ⟨"LD_ST_VX", 0xF018, 0xF0FF, []⟩ (by decide) rfl rfl (wordXkk_and_fn8 _ x _)

theorem ldI (nnn : BitVec 12) : Statement (.ldI nnn) :=
  of_and ⟨"LD_I", 0xA000, 0xF000, []⟩ (by decide) rfl rfl (wordNnn_and_op _ nnn)

theorem addIVx (x : Reg) : Statement (.addIVx x) :=
  of_and ⟨"ADD_I_VX", 0xF01E, 0xF0FF, []⟩ (by decide) rfl rfl (wordXkk_and_fn8 _ x _)

theorem ldFVx (x : Reg) : Statement (.ldFVx x) :=
  of_and ⟨"LD_F_VX", 0xF029, 0xF0FF, []⟩ (by decide) rfl rfl (wordXkk_and_fn8 _ x _)

theorem ldBVx (x : Reg) : Statement (.ldBVx x) :=
  of_and ⟨"LD_B_VX", 0xF033, 0xF0FF, []⟩ (by decide) rfl rfl (wordXkk_and_fn8 _ x _)

theorem ldIVx (x : Reg) : Statement (.ldIVx x) :=
  of_and ⟨"LD_I_VX", 0xF055, 0xF0FF, []⟩ (by decide) rfl rfl (wordXkk_and_fn8 _ x _)

theorem ldVxI (x : Reg) : Statement (.ldVxI x) :=
  of_and ⟨"LD_VX_I", 0xF065, 0xF0FF, []⟩ (by decide) rfl rfl (wordXkk_and_fn8 _ x _)

end Sys2Proof.Laws.EncodesItsRow
end

