-- ==== Sys2Proof/Laws/Step.lean ====
section
/-! SUPPORT. Inversion, once: what Execute can leave (40_fetch_execute.md R117, R118, R253), what a CPU tick can do
(R110 to R118), and what a step can do (60_exceptions.md R273). A proof about steps takes these apart instead of
unfolding the tick. -/

namespace Sys2Proof.Machine

/-! ### Execute -/

/-- The fields no completed instruction writes: the fault record, the parameters, the run flags, the counters of the
tick, the staged ROM, the keys, and the schedule with its counter (R28, R29, R31, R33, R36, R37, R304). -/
structure KeepsControl (s t : State) : Prop where
  fault : t.fault = s.fault
  cfg : t.cfg = s.cfg
  running : t.running = s.running
  cycleCount : t.cycleCount = s.cycleCount
  stagedRom : t.stagedRom = s.stagedRom
  key : t.key = s.key
  prev : t.prev = s.prev
  schedActive : t.schedActive = s.schedActive
  refused : t.refused = s.refused
  schedule : t.schedule = s.schedule
  moveCount : t.moveCount = s.moveCount

/-- An update that leaves these fields by definition. -/
theorem KeepsControl.refl (s : State) : KeepsControl s s := ⟨rfl, rfl, rfl, rfl, rfl, rfl, rfl, rfl, rfl, rfl, rfl⟩

/-- A skip writes pc alone. -/
theorem KeepsControl.skipIf (s : State) (c : Bool) : KeepsControl s (s.skipIf c) := by
  cases c <;> exact ⟨rfl, rfl, rfl, rfl, rfl, rfl, rfl, rfl, rfl, rfl, rfl⟩

/-- What the record of an instruction's own fault holds (R252). -/
def ownRecord (s : State) (i : Instr) (c : Fault) (a : Option Nat) : FaultRecord :=
  { cause := c, pc := s.instrAddr, word := some (encode i), addr := a }

/-- The state after an instruction that raised, with a record of its cause (R252, R253). -/
def RaisedBy (i : Instr) (s t : State) : Prop :=
  ∃ c a, t = s.takeFault s.instrAddr c (some (encode i)) a ∧ (ownRecord s i c a).wf = true

theorem RaisedBy.of_raise {i : Instr} {s t : State} {c : Fault} {a : Option Nat}
    (h : s.raise c (encode i) a = .next t) (hw : (ownRecord s i c a).wf = true) : RaisedBy i s t :=
  ⟨c, a, by rw [State.raise] at h; exact (Host.Outcome.next.inj h).symm, hw⟩

/-- A run of reads that answers an address answers one outside memory (R54). -/
theorem State.readBytes_error_ge {s : State} {a n e : Nat} (h : s.readBytes a n = .error e) : memSize ≤ e := by
  by_cases hn : n = 0 ∨ a + n ≤ memSize
  · rw [s.readBytes_ok a n hn] at h; cases h
  · rw [s.readBytes_error a n (fun h0 => hn (.inl h0)) (by omega)] at h
    cases h; exact Nat.le_max_right _ _

/-- A run of writes that answers an address answers one outside memory (R55). -/
theorem State.writeBytes_error_ge {s : State} {a e : Nat} {bs : List Byte} (h : s.writeBytes a bs = .error e) :
    memSize ≤ e := by
  by_cases hn : bs = [] ∨ a + bs.length ≤ memSize
  · obtain ⟨t, ht, -⟩ := s.writeBytes_ok a bs hn; rw [ht] at h; cases h
  · rw [s.writeBytes_error a bs (fun h0 => hn (.inl h0)) (by omega)] at h
    cases h; exact Nat.le_max_right _ _

/-- A store at I raises, or changes memory alone and keeps its canonical form (R223, R224). -/
theorem State.storeAtI_cases {i : Instr} {s t : State} {bs : List Byte} (h : s.storeAtI (encode i) bs = .next t) :
    RaisedBy i s t ∨ (t = { s with mem := t.mem } ∧
      (∀ c, t.byteAt c = if s.i.toNat ≤ c then (bs[c - s.i.toNat]?).getD (s.byteAt c) else s.byteAt c) ∧
      (Memory.wf s.cfg.fontGlyphs s.mem = true → Memory.wf s.cfg.fontGlyphs t.mem = true)) := by
  unfold State.storeAtI at h
  split at h
  · rename_i a ha
    exact .inl (.of_raise h (by simp [ownRecord, FaultRecord.wf, State.writeBytes_error_ge ha]))
  · rename_i u hu
    cases h
    refine .inr ?_
    by_cases hn : bs = [] ∨ s.dataAddr 0 + bs.length ≤ memSize
    · obtain ⟨w, hw, hf, hr, hk⟩ := s.writeBytes_ok _ bs hn
      rw [hw] at hu; cases hu
      exact ⟨hf, hr, hk⟩
    · rw [s.writeBytes_error _ bs (fun h0 => hn (.inl h0)) (by omega)] at hu; cases hu

/-- What Execute can leave: a raise of the instruction, or a state in which no control field was written. -/
theorem exec_cases {i : Instr} {s t : State} (h : exec i s = .next t) : RaisedBy i s t ∨ KeepsControl s t := by
  cases i
  case ret =>
    simp only [exec, execRet] at h
    split at h
    · exact .inl (.of_raise h rfl)
    · cases h; exact .inr ⟨rfl, rfl, rfl, rfl, rfl, rfl, rfl, rfl, rfl, rfl, rfl⟩
  case call nnn =>
    simp only [exec, execCall] at h
    split at h
    · exact .inl (.of_raise h rfl)
    · cases h; exact .inr ⟨rfl, rfl, rfl, rfl, rfl, rfl, rfl, rfl, rfl, rfl, rfl⟩
  case seVxKk x kk => cases h; exact .inr (.skipIf _ _)
  case sneVxKk x kk => cases h; exact .inr (.skipIf _ _)
  case seVxVy x y => cases h; exact .inr (.skipIf _ _)
  case sneVxVy x y => cases h; exact .inr (.skipIf _ _)
  case skpVx x =>
    simp only [exec, execSkpVx] at h
    split at h
    · exact .inl (.of_raise h rfl)
    · cases h; exact .inr (.skipIf _ _)
  case sknpVx x =>
    simp only [exec, execSknpVx] at h
    split at h
    · exact .inl (.of_raise h rfl)
    · cases h; exact .inr (.skipIf _ _)
  case drw x y n =>
    simp only [exec, execDrw] at h
    split at h
    · rename_i a ha
      exact .inl (.of_raise h (by simp [ownRecord, FaultRecord.wf, State.readBytes_error_ge ha]))
    · cases h; exact .inr ⟨rfl, rfl, rfl, rfl, rfl, rfl, rfl, rfl, rfl, rfl, rfl⟩
  case ldVxI x =>
    simp only [exec, execLdVxI] at h
    split at h
    · rename_i a ha
      exact .inl (.of_raise h (by simp [ownRecord, FaultRecord.wf, State.readBytes_error_ge ha]))
    · cases h; rw [State.loadRegs_frame]; exact .inr ⟨rfl, rfl, rfl, rfl, rfl, rfl, rfl, rfl, rfl, rfl, rfl⟩
  case ldBVx x =>
    rcases State.storeAtI_cases h with h | ⟨hf, -⟩
    · exact .inl h
    · rw [hf]; exact .inr ⟨rfl, rfl, rfl, rfl, rfl, rfl, rfl, rfl, rfl, rfl, rfl⟩
  case ldIVx x =>
    rcases State.storeAtI_cases h with h | ⟨hf, -⟩
    · exact .inl h
    · rw [hf]; exact .inr ⟨rfl, rfl, rfl, rfl, rfl, rfl, rfl, rfl, rfl, rfl, rfl⟩
  all_goals cases h; exact .inr ⟨rfl, rfl, rfl, rfl, rfl, rfl, rfl, rfl, rfl, rfl, rfl⟩

/-! ### The CPU tick -/

/-- What fetch and execute can do (R110, R114 to R118): a fetch fault, an illegal word, the refusal of the maximal
mode, or an instruction, retired unless it raised. -/
theorem State.fetchExecute_cases {s t : State} (h : s.fetchExecute = .next t) :
    (∃ c a, fetchFault s.pc = some (c, a) ∧ t = s.takeFault s.pc c none a) ∨
    (fetchFault s.pc = none ∧ decode (s.fetchWord s.pc.toNat) = none ∧
      t = s.takeFault s.pc .illegalInstruction (some (s.fetchWord s.pc.toNat)) none) ∨
    (fetchFault s.pc = none ∧ (∃ i, decode (s.fetchWord s.pc.toNat) = some i) ∧ s.cfg.quirkMode = .maximal ∧
      t = s.refuse) ∨
    (∃ i u, fetchFault s.pc = none ∧ decode (s.fetchWord s.pc.toNat) = some i ∧ s.cfg.quirkMode = .standard ∧
      exec i s.advance = .next u ∧ t = if u.fault.isNone then u.retire else u) := by
  unfold State.fetchExecute at h
  cases hf : fetchFault s.pc with
  | some p => rw [hf] at h; cases h; exact .inl ⟨p.1, p.2, rfl, rfl⟩
  | none =>
    rw [hf] at h
    cases hd : decode (s.fetchWord s.pc.toNat) with
    | none => simp only [hd] at h; cases h; exact .inr (.inl ⟨rfl, rfl, rfl⟩)
    | some i =>
      cases hq : s.cfg.quirkMode with
      | maximal => simp only [hd, hq] at h; cases h; exact .inr (.inr (.inl ⟨rfl, ⟨i, rfl⟩, rfl, rfl⟩))
      | standard =>
        simp only [hd, hq] at h
        cases hx : exec i s.advance with
        | next u => rw [hx] at h; cases h; exact .inr (.inr (.inr ⟨i, u, rfl, rfl, rfl, hx, rfl⟩))
        | fault f => rw [hx] at h; cases h
        | refused r => rw [hx] at h; cases h

/-- What a CPU tick can do (R110 to R113): nothing, where the core is faulted, stopped or capped; a poll; or a fetch and
execute. -/
theorem State.cpuTick_cases {s t : State} (h : s.cpuTick = .next t) :
    (t = s ∧ (s.fault.isSome = true ∨ s.future = .inactive ∧ (s.running = false ∨ s.capHit = true))) ∨
    (∃ r, s.fault = none ∧ s.future = .pending r ∧ t = s.pollKeyWait r) ∨
    (s.fault = none ∧ s.future = .inactive ∧ s.running = true ∧ s.capHit = false ∧ s.fetchExecute = .next t) := by
  unfold State.cpuTick at h
  cases hf : s.fault with
  | some r => simp only [hf, Option.isSome_some, if_true] at h; cases h; exact .inl ⟨rfl, .inl rfl⟩
  | none =>
    simp only [hf, Option.isSome_none, Bool.false_eq_true, if_false] at h
    cases hw : s.future with
    | pending r => simp only [hw] at h; cases h; exact .inr (.inl ⟨r, rfl, rfl, rfl⟩)
    | inactive =>
      simp only [hw] at h
      cases hr : s.running <;> cases hc : s.capHit <;> simp only [hr, hc] at h
      · cases h; exact .inl ⟨rfl, .inr ⟨rfl, .inl rfl⟩⟩
      · cases h; exact .inl ⟨rfl, .inr ⟨rfl, .inl rfl⟩⟩
      · exact .inr (.inr ⟨rfl, rfl, rfl, rfl, h⟩)
      · cases h; exact .inl ⟨rfl, .inr ⟨rfl, .inr rfl⟩⟩

/-! ### The step -/

/-- The state a move runs on is the state before with its move taken: off the schedule, or off the free moves. -/
theorem State.nextMove_snd (s : State) : s.nextMove.2 = { s with
    schedule := s.schedule.tail, moveCount := if s.schedule = [] then s.moveCount + 1 else s.moveCount } := by
  unfold State.nextMove
  cases h : s.schedule with
  | nil => simp only [List.tail_nil, if_true]
  | cons m ms => rfl

/-- The move a step runs is the first of the moves to come. -/
theorem State.nextMove_fst (s : State) : s.nextMove.1 = s.moveAt 0 := by
  unfold State.nextMove State.moveAt
  cases s.schedule <;> rfl

/-- A step runs its move on that state (R273). -/
theorem step_eq (s : State) : step s = ({ s with
    schedule := s.schedule.tail, moveCount := if s.schedule = [] then s.moveCount + 1 else s.moveCount } :
      State).runMove s.nextMove.1 := by
  rw [step, State.machineStep, State.nextMove_snd]

/-! ### Runs under an order of moves (R273) -/

@[simp] theorem steps_zero (s : State) : steps 0 s = some s := rfl

/-- A run of steps goes on from the state after its first step. -/
theorem steps_succ {s t : State} (n : Nat) (h : step s = .next t) : steps (n + 1) s = steps n t := by
  rw [steps, h]

@[simp] theorem State.under_zero (env : Nat → Move) (s : State) : s.under env 0 = s := rfl
@[simp] theorem State.under_succ (env : Nat → Move) (s : State) (n : Nat) :
    s.under env (n + 1) = (s.under env n).moved (env n) := rfl

/-- Where a move answers a next state, that is the state after it. -/
theorem State.moved_eq {s t : State} {m : Move} (h : s.runMove m = .next t) : s.moved m = t := by
  rw [State.moved, h]

/-- The first n moves of a run depend on the first n moves of the order alone. -/
theorem State.under_congr {env env' : Nat → Move} (s : State) {n : Nat} (h : ∀ k, k < n → env k = env' k) :
    s.under env n = s.under env' n := by
  induction n with
  | zero => rfl
  | succ n ih => rw [State.under_succ, State.under_succ, ih fun k hk => h k (by omega), h n (by omega)]

/-- What each move but the CPU tick leaves (R260, R263, R264, R272, R301, R302). -/
theorem State.moved_timerTick (s : State) : s.moved .timerTick = if s.schedActive then s.timerTick else s := rfl
theorem State.moved_keyDown (s : State) (k : Key) : s.moved (.keyDown k) = s.keyDown k := rfl
theorem State.moved_keyUp (s : State) (k : Key) : s.moved (.keyUp k) = s.keyUp k := rfl
theorem State.moved_loadRom (s : State) (bs : List Byte) : s.moved (.loadRom bs) = s.loadRom bs := rfl
theorem State.moved_reset (s : State) : s.moved .reset = s.resetCore := rfl
theorem State.moved_start (s : State) : s.moved .start = s.startTicks := rfl
theorem State.moved_stop (s : State) : s.moved .stop = s.stopTicks := rfl
theorem State.moved_cleanup (s : State) : s.moved .cleanup = s.stopTicks := rfl

/-- A faulted core does nothing at a CPU tick (R111). -/
theorem State.moved_cpuTick_faulted {s : State} (h : s.fault ≠ none) : s.moved .cpuTick = s := by
  have hf : s.fault.isSome = true := Option.isSome_iff_ne_none.2 h
  apply State.moved_eq
  simp only [State.runMove, State.cpuTick, hf, if_true, ite_self]

end Sys2Proof.Machine
end

