-- ==== Sys2Proof/Tests/Slice0.lean ====
section
/-! SUPPORT. Tests of one step on small states, with results written out from spec/ (95_test_vectors.md, by vector
id, and the rules' own examples), and for every statement with hypotheses a state and operands that meet them. -/

namespace Sys2Proof.Tests

open Sys2Proof.Machine Sys2Proof.Claims

/-! ### Well-formedness (30_encoding.md R84, R88) -/

theorem test_sys_of_cls_word_is_ill_formed : (Instr.sys 0x0E0#12).wellFormed = false := by decide
theorem test_sys_of_ret_word_is_ill_formed : (Instr.sys 0x0EE#12).wellFormed = false := by decide
theorem test_sys_beside_them_is_well_formed : (Instr.sys 0x0E1#12).wellFormed = true := by decide

/-! ### Decoding: words written out from the encodings of R85, one for every constructor -/

theorem test_decode_control_flow :
    decode 0x00E0#16 = some .cls ∧ decode 0x00EE#16 = some .ret ∧ decode 0x0FFF#16 = some (.sys 0xFFF) ∧
    decode 0x1ABC#16 = some (.jp 0xABC) ∧ decode 0xB123#16 = some (.jpV0 0x123) ∧
    decode 0x2ABC#16 = some (.call 0xABC) ∧ decode 0x3142#16 = some (.seVxKk 1 0x42) ∧
    decode 0x4142#16 = some (.sneVxKk 1 0x42) ∧ decode 0x5120#16 = some (.seVxVy 1 2) ∧
    decode 0x9120#16 = some (.sneVxVy 1 2) := by decide

theorem test_decode_alu :
    decode 0x6A2C#16 = some (.ldVxKk 0xA 0x2C) ∧ decode 0x8230#16 = some (.ldVxVy 2 3) ∧
    decode 0x7C42#16 = some (.addVxKk 0xC 0x42) ∧ decode 0x8121#16 = some (.orVxVy 1 2) ∧
    decode 0x8122#16 = some (.andVxVy 1 2) ∧ decode 0x8123#16 = some (.xorVxVy 1 2) ∧
    decode 0x8124#16 = some (.addVxVy 1 2) ∧ decode 0x8125#16 = some (.subVxVy 1 2) ∧
    decode 0x8127#16 = some (.subnVxVy 1 2) ∧ decode 0x8AB6#16 = some (.shrVx 0xA 0xB) ∧
    decode 0x800E#16 = some (.shlVx 0 0) ∧ decode 0xC30F#16 = some (.rndVx 3 0x0F) := by decide

theorem test_decode_display_keypad_timers :
    decode 0xD5A3#16 = some (.drw 5 0xA 3) ∧ decode 0xE19E#16 = some (.skpVx 1) ∧
    decode 0xE2A1#16 = some (.sknpVx 2) ∧ decode 0xF307#16 = some (.ldVxDt 3) ∧ decode 0xF50A#16 = some (.ldVxK 5) ∧
    decode 0xF215#16 = some (.ldDtVx 2) ∧ decode 0xF218#16 = some (.ldStVx 2) := by decide

theorem test_decode_index_memory :
    decode 0xA2F0#16 = some (.ldI 0x2F0) ∧ decode 0xF41E#16 = some (.addIVx 4) ∧ decode 0xFA29#16 = some (.ldFVx 0xA) ∧
    decode 0xF033#16 = some (.ldBVx 0) ∧ decode 0xF155#16 = some (.ldIVx 1) ∧ decode 0xF265#16 = some (.ldVxI 2) := by
  decide

theorem test_decode_gap_words :
    decode 0x5121#16 = none ∧ decode 0x8008#16 = none ∧ decode 0x800F#16 = none ∧ decode 0x912F#16 = none ∧
    decode 0xE09F#16 = none ∧ decode 0xF000#16 = none ∧ decode 0xFFFF#16 = none := by decide

/-- One byte is no instruction, and a gap word is refused by name (R80, R87). -/
theorem test_decode_bytes :
    decodeBytes [0x12] = .error (.truncated 1) ∧ decodeBytes [0x51, 0x21] = .error (.noRow 0x5121) ∧
    decodeBytes [0x12, 0x34, 0x56] = .ok (.jp 0x234, [0x56]) ∧ decodeTableWord 16 0x8124 = some (.addVxVy 1 2) := by
  exact ⟨rfl, rfl, rfl, rfl⟩

/-! ### One instruction from a small state -/

/-- The state after the word `w` has run at 0x200 of the state `s`. -/
def after (s : State) (w : Word16) : Option State :=
  match step (s.withFetchWord 16 w.toNat) with
  | .next t => some t
  | _ => none

/-- The construction state with some registers set. -/
def withRegs (l : List (Reg × Byte)) : State := l.foldl (fun s e => s.setReg e.1 e.2) State.reset

/-- The construction state with bytes in memory, given by address. -/
def withBytes (l : List (Nat × Byte)) : State := l.foldl (fun s e => s.setByte e.1 e.2) State.reset

/-- A reading of the state after a word. -/
def reading {α : Type} (s : State) (w : Word16) (f : State → α) : Option α := (after s w).map f

/-- A stack of sixteen entries. -/
def fullStack : List Word16 := List.replicate 16 0x202

theorem test_sys : reading State.reset 0x0123 (fun t => (t.pc, t.cycleCount)) = some (0x202, 1) := by decide -- CF1
theorem test_jp : reading State.reset 0x1ABC (·.pc) = some 0xABC := by decide -- CF2
theorem test_jpV0 : reading (withRegs [(0, 0xFF)]) 0xBFFF (·.pc) = some 0x10FE := by decide -- CF6
theorem test_call : reading State.reset 0x2300 (fun t => (t.stack, t.pc)) = some ([0x202], 0x300) := by decide -- CF7
theorem test_call_full : reading { State.reset with pc := 0x300, stack := fullStack } 0x2400
    (fun t => (t.fault, t.pc, t.stack, t.cycleCount)) = some (some ⟨.stackOverflow, 0x300, some 0x2400, none⟩, 0x300,
      fullStack, 0) := by decide -- CF8
theorem test_ret : reading { State.reset with pc := 0x300, stack := [0x400, 0x202] } 0x00EE
    (fun t => (t.pc, t.stack)) = some (0x202, [0x400]) := by decide -- CF9
theorem test_ret_empty : reading { State.reset with pc := 0x202 } 0x00EE (fun t => (t.fault, t.pc)) =
    some (some ⟨.stackUnderflow, 0x202, some 0x00EE, none⟩, 0x202) := by decide -- CF10
theorem test_se_kk : reading (withRegs [(1, 0x42)]) 0x3142 (·.pc) = some 0x204 ∧
    reading (withRegs [(1, 0x41)]) 0x3142 (·.pc) = some 0x202 := by decide -- CF11, CF12
theorem test_sne_kk : reading (withRegs [(1, 0x41)]) 0x4142 (·.pc) = some 0x204 ∧
    reading (withRegs [(1, 0x42)]) 0x4142 (·.pc) = some 0x202 := by decide -- CF13, CF14
theorem test_se_vy : reading (withRegs [(1, 7), (2, 7)]) 0x5120 (·.pc) = some 0x204 := by decide -- CF15
theorem test_sne_vy : reading (withRegs [(1, 7), (2, 8)]) 0x9120 (·.pc) = some 0x204 := by decide -- CF16

theorem test_ld_kk : reading State.reset 0x6AFF (·.reg 0xA) = some 0xFF := by decide -- AL1
theorem test_ld_vy : reading (withRegs [(0xB, 0x3C)]) 0x8AB0 (fun t => (t.reg 0xA, t.reg 0xB)) = some (0x3C, 0x3C) := by
  decide -- AL2
theorem test_add_kk_no_flag : reading (withRegs [(5, 0xFF), (15, 0x77)]) 0x7501 (fun t => (t.reg 5, t.reg 15)) =
    some (0x00, 0x77) := by decide -- AL3
theorem test_or : reading (withRegs [(1, 0xF0), (2, 0x3C), (15, 0x77)]) 0x8121 (fun t => (t.reg 1, t.reg 15)) =
    some (0xFC, 0x77) := by decide -- AL5
theorem test_and : reading (withRegs [(1, 0xF0), (2, 0x3C), (15, 0x77)]) 0x8122 (fun t => (t.reg 1, t.reg 15)) =
    some (0x30, 0x77) := by decide -- AL6
theorem test_xor : reading (withRegs [(1, 0xF0), (2, 0x3C), (15, 0x77)]) 0x8123 (fun t => (t.reg 1, t.reg 15)) =
    some (0xCC, 0x77) := by decide -- AL7
theorem test_add_carry : reading (withRegs [(1, 0x80), (2, 0x80)]) 0x8124 (fun t => (t.reg 1, t.reg 15)) =
    some (0x00, 1) := by decide -- AL10
theorem test_add_vf_both : reading (withRegs [(15, 0xFF), (1, 0x01)]) 0x8F14 (·.reg 15) = some 1 ∧
    reading (withRegs [(1, 0x01), (15, 0xFF)]) 0x81F4 (fun t => (t.reg 1, t.reg 15)) = some (0, 1) := by
  decide -- AL13, AL14
theorem test_sub_borrow : reading (withRegs [(1, 3), (2, 5)]) 0x8125 (fun t => (t.reg 1, t.reg 15)) = some (0xFE, 0) := by
  decide -- AL16
theorem test_sub_equal : reading (withRegs [(1, 5), (2, 5), (15, 9)]) 0x8125 (fun t => (t.reg 1, t.reg 15)) =
    some (0, 0) := by decide -- AL17
theorem test_subn : reading (withRegs [(1, 3), (2, 5)]) 0x8127 (fun t => (t.reg 1, t.reg 15)) = some (2, 1) ∧
    reading (withRegs [(1, 5), (2, 3)]) 0x8127 (fun t => (t.reg 1, t.reg 15)) = some (0xFE, 0) := by decide -- AL20, AL21
theorem test_shr : reading (withRegs [(1, 0xFF)]) 0x8106 (fun t => (t.reg 1, t.reg 15)) = some (0x7F, 1) := by
  decide -- AL25
theorem test_shr_ignores_y : reading (withRegs [(1, 8), (2, 0xFF)]) 0x8126 (fun t => (t.reg 1, t.reg 15, t.reg 2)) =
    some (4, 0, 0xFF) := by decide -- AL27
theorem test_shl : reading (withRegs [(1, 0x81)]) 0x810E (fun t => (t.reg 1, t.reg 15)) = some (2, 1) := by
  decide -- AL29
theorem test_shl_vf : reading (withRegs [(15, 0x40)]) 0x8F0E (·.reg 15) = some 0 := by decide -- AL32
/-- The draw is free: the result is the first draw masked, whatever it is (R161). -/
theorem test_rnd_is_the_masked_draw : reading State.reset 0xC30F (fun t => (t.reg 3, t.rndCount)) =
    some (Config.rnd 0 &&& 0x0F, 1) := rfl

theorem test_cls : reading { State.reset with fb := Framebuffer.off.setCell 63 31 true } 0x00E0
    (fun t => (t.fb.cell 63 31, t.reg 15)) = some (false, 0) := by decide -- DR1

/-- The 3 x 3 sprite of W3 at 0x300, drawn at (5, 10). -/
def ringAt : State := { (withBytes [(0x300, 0xE0), (0x301, 0xA0), (0x302, 0xE0)]) with
  i := 0x300, v := (withRegs [(0, 5), (1, 10)]).v }

theorem test_drw_ring : reading ringAt 0xD013 (fun t => ([t.fb.cell 5 10, t.fb.cell 6 10, t.fb.cell 7 10,
    t.fb.cell 5 11, t.fb.cell 6 11, t.fb.cell 7 11, t.fb.cell 5 12, t.fb.cell 7 12, t.fb.cell 8 10], t.reg 15)) =
    some ([true, true, true, true, false, true, true, true, false], 0) := by decide -- W3
/-- Wrap in both directions, and a collision: 0xFF at (62, 31), with (0, 31) on before (DR7, DR8). -/
theorem test_drw_wraps_and_collides : reading { (withBytes [(0x300, 0xFF), (0x301, 0x80)]) with
    i := 0x300, v := (withRegs [(0, 62), (1, 31)]).v, fb := Framebuffer.off.setCell 0 31 true } 0xD012
    (fun t => ([t.fb.cell 62 31, t.fb.cell 63 31, t.fb.cell 0 31, t.fb.cell 5 31, t.fb.cell 62 0], t.reg 15)) =
    some ([true, true, false, true, true], 1) := by decide

theorem test_skp : reading { (withRegs [(0, 5)]) with key := State.reset.key.set 5 true } 0xE09E (·.pc) = some 0x204 ∧
    reading (withRegs [(0, 5)]) 0xE09E (·.pc) = some 0x202 := by decide -- KT1, KT2
theorem test_skp_no_key : reading (withRegs [(0, 0x10)]) 0xE09E (fun t => (t.fault, t.pc)) =
    some (some ⟨.keyIndex, 0x200, some 0xE09E, none⟩, 0x200) := by decide -- KT4
theorem test_sknp : reading (withRegs [(0, 5)]) 0xE0A1 (·.pc) = some 0x204 := by decide -- KT3
theorem test_sknp_no_key : reading (withRegs [(0, 0xFF)]) 0xE0A1 (·.fault) =
    some (some ⟨.keyIndex, 0x200, some 0xE0A1, none⟩) := by decide -- KT5
theorem test_ld_vx_dt : reading { State.reset with dt := 0x3C } 0xF307 (·.reg 3) = some 0x3C := by decide -- KT6
theorem test_ld_vx_k : reading { State.reset with prev := State.reset.prev.set 4 true } 0xF50A
    (fun t => (t.future, t.reg 5, t.cycleCount, t.prevAt 4)) = some (.pending 5, 0, 1, false) := by decide -- KT7
theorem test_ld_dt : reading (withRegs [(2, 0x3C)]) 0xF215 (·.dt) = some 0x3C := by decide -- KT8
theorem test_ld_st : reading (withRegs [(2, 2)]) 0xF218 (fun t => (t.st, t.tone)) = some (2, true) := by decide -- KT9

theorem test_ld_i : reading State.reset 0xA123 (·.i) = some 0x123 := by decide -- IM1
theorem test_add_i : reading { (withRegs [(0, 1)]) with i := 0x0FFF } 0xF01E (·.i) = some 0x1000 ∧
    reading { (withRegs [(0, 1)]) with i := 0xFFFF } 0xF01E (·.i) = some 0 := by decide -- IM2, IM3
theorem test_ld_f : reading (withRegs [(0, 0x0F)]) 0xF029 (·.i) = some 0x09B ∧
    reading (withRegs [(0, 0xFF)]) 0xF029 (·.i) = some 0x54B := by decide -- IM5, IM7
theorem test_ld_b : reading { (withRegs [(0, 0x7B)]) with i := 0xFFD } 0xF033
    (fun t => (t.byteAt 0xFFD, t.byteAt 0xFFE, t.byteAt 0xFFF)) = some (1, 2, 3) := by decide -- IM12
theorem test_ld_b_out_of_range : reading { (withRegs [(0, 0x7B)]) with i := 0xFFE } 0xF033
    (fun t => (t.fault, t.byteAt 0xFFE)) = some (some ⟨.memoryRange, 0x200, some 0xF033, some 0x1000⟩, 0) := by
  decide -- IM13
theorem test_ld_i_vx : reading { (withRegs [(0, 0x11), (1, 0x22), (2, 0x33)]) with i := 0x400 } 0xF155
    (fun t => (t.byteAt 0x400, t.byteAt 0x401, t.byteAt 0x402, t.i)) = some (0x11, 0x22, 0, 0x400) := by decide -- R224
theorem test_ld_i_vx_out_of_range : reading { State.reset with i := 0xFF1 } 0xFF55 (·.fault) =
    some (some ⟨.memoryRange, 0x200, some 0xFF55, some 0x1000⟩) := by decide -- IM16
theorem test_ld_vx_i_font : reading { State.reset with i := 0x050 } 0xF465
    (fun t => [t.reg 0, t.reg 1, t.reg 2, t.reg 3, t.reg 4, t.reg 5]) = some [0xF0, 0x90, 0x90, 0x90, 0xF0, 0] := by
  decide -- IM20
theorem test_ld_vx_i_out_of_range : reading { (withRegs [(0, 0x55), (1, 0x66)]) with i := 0xFFF } 0xF165
    (fun t => (t.fault, t.reg 0, t.reg 1)) = some (some ⟨.memoryRange, 0x200, some 0xF165, some 0x1000⟩, 0x55, 0x66) := by
  decide -- IM19

/-! ### The tick, the devices and the host -/

/-- A running core with ticks delivered and a given list of moves. -/
def live (moves : List Move) : State := { State.reset with schedActive := true, running := true, schedule := moves }

/-- A reading of the state after one step. -/
def stepped {α : Type} (s : State) (f : State → α) : Option α :=
  match step s with
  | .next t => some (f t)
  | _ => none

theorem test_odd_pc : stepped { (live [.cpuTick]) with pc := 0xFFF } (·.fault) =
    some (some ⟨.misalignedFetch, 0xFFF, none, none⟩) := by decide -- T8
theorem test_pc_past_top : stepped { (live [.cpuTick]) with pc := 0x1000 } (·.fault) =
    some (some ⟨.fetchRange, 0x1000, none, some 0x1000⟩) := by decide -- T9
theorem test_last_address_runs : reading { State.reset with pc := 0xFFE } 0x6007 (fun t => (t.reg 0, t.pc)) =
    some (7, 0x1000) := by decide -- T10
theorem test_illegal_word : reading { State.reset with prev := State.reset.prev.set 5 true } 0x5121
    (fun t => (t.fault, t.pc, t.cycleCount, t.prevAt 5)) =
    some (some ⟨.illegalInstruction, 0x200, some 0x5121, none⟩, 0x200, 0, true) := by decide -- T11, T14
theorem test_faulted_core_is_frozen : stepped { (live [.cpuTick]) with
    fault := some ⟨.stackUnderflow, 0x202, some 0x00EE, none⟩, pc := 0x202 } (fun t => (t.pc, t.cycleCount)) =
    some (0x202, 0) := by decide -- T1
theorem test_poll_resolves : stepped { (live [.cpuTick]) with future := .pending 3, prev := State.reset.prev.set 4 true }
    (fun t => (t.reg 3, t.future, t.pc, t.cycleCount, t.prevAt 4)) = some (4, .inactive, 0x200, 0, true) := by decide -- T3
theorem test_poll_smallest_key : stepped { (live [.cpuTick]) with
    future := .pending 3, prev := (State.reset.prev.set 9 true).set 2 true } (·.reg 3) = some 2 := by decide -- KT15
theorem test_not_running : stepped { (live [.cpuTick]) with running := false } (fun t => (t.pc, t.cycleCount)) =
    some (0x200, 0) := by decide -- T4
theorem test_cycle_cap : stepped { (live [.cpuTick]) with cycleCount := 3, cfg := { defaultConfig with cycleCap := some 3 } }
    (fun t => (t.pc, t.cycleCount)) = some (0x200, 3) := by decide -- T5
theorem test_maximal_mode : stepped { (live [.cpuTick]) with cfg := { defaultConfig with quirkMode := .maximal } }
    (fun t => (t.refused, t.pc, t.cycleCount)) = some (true, 0x200, 0) := by decide -- T12
theorem test_timer_tick : stepped { (live [.timerTick]) with dt := 2, st := 1, running := false }
    (fun t => (t.dt, t.st, t.tone)) = some (1, 0, false) := by decide -- W9
theorem test_timer_floor : stepped (live [.timerTick]) (fun t => (t.dt, t.st)) = some (0, 0) := by decide -- KT16
theorem test_key_down : stepped (live [.keyDown 3]) (fun t => (t.prevAt 3, t.keyAt 3, t.keyReleased)) =
    some (false, true, none) := by decide -- KT11
theorem test_key_up : stepped { (live [.keyUp 3]) with key := State.reset.key.set 3 true }
    (fun t => (t.prevAt 3, t.keyAt 3, t.keyReleased)) = some (true, false, some 3) := by decide -- KT12
theorem test_second_key_up : stepped { (live [.keyUp 3]) with prev := State.reset.prev.set 3 true }
    (fun t => (t.prevAt 3, t.keyAt 3)) = some (false, false) := by decide -- KT13
theorem test_load_rom : stepped { State.reset with schedule := [.loadRom [0x12, 0x34]] }
    (fun t => (t.stagedRom, t.byteAt 0x200, t.byteAt 0x201, t.byteAt 0x050, t.running, t.schedActive)) =
    some (some [0x12, 0x34], 0x12, 0x34, 0xF0, true, true) := by decide -- RS2
theorem test_reset_restores : stepped { ((State.reset.loadRom [0x12, 0x34]).setByte 0x200 0).setByte 0x050 0 with
    schedule := [.reset], i := 9 } (fun t => (t.byteAt 0x200, t.byteAt 0x050, t.i, t.running)) =
    some (0x12, 0xF0, 0, true) := by decide -- RS2
theorem test_reset_without_rom : stepped { State.reset with schedule := [.reset] }
    (fun t => (t.running, t.schedActive, t.mem)) = some (false, false, []) := by decide -- RS3
theorem test_stop_then_tick : stepped { (live [.cpuTick]) with schedActive := false } (·.cycleCount) = some 0 ∧
    stepped (live [.stop]) (·.schedActive) = some false ∧
    stepped { State.reset with schedule := [.start] } (·.schedActive) = some true := by decide -- RS7
theorem test_mem_slice : State.reset.memSlice 0x050 0x053 = some [0xF0, 0x90, 0x90] ∧
    State.reset.memSlice 0xFFF 0x1001 = none := by decide -- R68, R53
theorem test_debug_view : { State.reset with stack := [0x202, 0x304], dt := 4 }.debugView.stack = [0x202, 0x304] ∧
    { State.reset with stack := [0x202, 0x304], dt := 4 }.debugView.dt = 4 := by decide -- R40
theorem test_fault_codes : [Fault.illegalInstruction, .misalignedFetch, .fetchRange, .memoryRange, .stackOverflow,
    .stackUnderflow, .keyIndex].map Fault.code = [1, 2, 3, 4, 5, 6, 7] := by decide -- R251

theorem test_assemble_shift : assemble (.shrVx 1 15) = 0x8106#16 ∧ assemble (.shlVx 1 15) = 0x810E#16 := by decide
theorem test_assembler_operands : (Instr.drw 13 0 3).operands = ["VD", "V0", "0x3"] ∧
    (Instr.ldI 0x2F0).operands = ["I", "0x2F0"] ∧ (Instr.rndVx 3 0x0F).operands = ["V3", "0x0F"] := by decide

/-! ### Witnesses: for every statement with hypotheses, a state and operands that meet them -/

/-- A state about to run the word `w` at the construction state's pc. -/
def about (w : Word16) : State := State.reset.withFetchWord 16 w.toNat

theorem witness_DecodeOfEncode : (Instr.sys 0xFFF).wellFormed = true ∧ (Instr.drw 15 15 15).wellFormed = true := by decide
theorem witness_EncodeOfDecode : decode 0x8FF6#16 = some (.shrVx 15 15) := by decide
theorem witness_DecoderFollowsOpcodeMap : (⟨"SHL_VX", 0x800E, 0xF00F, []⟩ : OpcodeRow) ∈ opcodeTable := by decide
theorem witness_OpcodeRowsMutuallyExclusive :
    (⟨"CLS", 0x00E0, 0xFFFF, []⟩ : OpcodeRow) ∈ opcodeTable ∧
    OpcodeRow.matchesWord ⟨"CLS", 0x00E0, 0xFFFF, []⟩ 0x00E0 = true := by decide
theorem witness_StepRunsDecodedInstruction :
    (about 0x6A2C).cpuTickNext = true ∧ (about 0x6A2C).executes = true ∧ (about 0x6A2C).cfg.quirkMode = .standard ∧
    (about 0x6A2C).pc.toNat % 2 = 0 ∧ (about 0x6A2C).pc.toNat + 1 < 4096 ∧
    fetched (about 0x6A2C) = some (.ldVxKk 0xA 0x2C) ∧
    ∃ t, exec (.ldVxKk 0xA 0x2C) { afterMove (about 0x6A2C) with pc := (about 0x6A2C).pc + 2 } = .next t :=
  ⟨rfl, rfl, rfl, by decide, by decide, by decide, _, rfl⟩
/-- A running core at a given pc. -/
def liveAt (pc : Word16) : State := { (live [.cpuTick]) with pc := pc }
theorem witness_FetchAddressFaults_executes (pc : Word16) : (liveAt pc).cpuTickNext = true ∧ (liveAt pc).executes = true :=
  ⟨rfl, rfl⟩
theorem witness_FetchAddressFaults : (0xFFF#16).toNat % 2 = 1 ∧ (0x1001#16).toNat % 2 = 1 ∧ (0x1000#16).toNat % 2 = 0 ∧
    4096 ≤ (0x1000#16).toNat + 1 := by simp
theorem witness_IllegalWordRaises : (about 0x5121).cpuTickNext = true ∧ (about 0x5121).executes = true ∧
    (about 0x5121).pc.toNat % 2 = 0 ∧ (about 0x5121).pc.toNat + 1 < 4096 ∧ fetched (about 0x5121) = none := by decide
theorem witness_FaultsArePrecise : (about 0x00EE).cpuTickNext = true ∧ (about 0x00EE).fault = none ∧
    ∃ t, step (about 0x00EE) = .next t ∧ t.fault ≠ none := ⟨rfl, rfl, _, rfl, by decide⟩

/-- A faulted state at a RET. -/
def faulted (moves : List Move) : State :=
  { (live moves) with pc := 0x202, fault := some ⟨.stackUnderflow, 0x202, some 0x00EE, none⟩ }

theorem witness_FaultedCoreIsFrozen : (faulted [.cpuTick]).fault ≠ none ∧ ¬ MoveIs (faulted [.cpuTick]) .reset ∧
    ¬ MoveLoads (faulted [.cpuTick]) ∧ ∃ t, step (faulted [.cpuTick]) = .next t :=
  ⟨by decide, by unfold MoveIs; decide, by rintro ⟨b, h⟩; exact absurd h (by simp [faulted, live, State.nextMove]), _, rfl⟩

/-- A state that waits for a key release on V3. -/
def waiting : State := { (live [.cpuTick]) with future := .pending 3, running := false, prev := State.reset.prev.set 9 true }

theorem witness_PendingWaitOnlyPolls : waiting.cpuTickNext = true ∧ waiting.schedActive = true ∧ waiting.fault = none ∧
    waiting.future = .pending 3 ∧ ∃ t, step waiting = .next t := ⟨rfl, rfl, rfl, rfl, _, rfl⟩
theorem witness_PollTakesSmallestReleasedKey :
    waiting.cpuTickNext = true ∧ waiting.schedActive = true ∧ waiting.fault = none ∧ waiting.future = .pending 3 ∧
    (waiting.prevAt 9 = true ∧ waiting.keyAt 9 = false) ∧
    (∀ j : Key, j < 9 → ¬ (waiting.prevAt j = true ∧ waiting.keyAt j = false)) ∧
    (∀ k : Key, ¬ ({ waiting with prev := State.reset.prev }.prevAt k = true ∧
      { waiting with prev := State.reset.prev }.keyAt k = false)) := by decide
/-- A core that is not running, and one at its cycle cap. -/
def halted : State := { (live [.cpuTick]) with running := false }
def capped : State := { (live [.cpuTick]) with cycleCount := 3, cfg := { defaultConfig with cycleCap := some 3 } }
theorem witness_RunGateHoldsExecution :
    (halted.cpuTickNext = true ∧ halted.fault = none ∧ halted.future = .inactive ∧ halted.running = false) ∧
    (capped.cpuTickNext = true ∧ capped.fault = none ∧ capped.future = .inactive ∧ capped.cfg.cycleCap = some 3 ∧
      3 ≤ capped.cycleCount) := by decide
/-- A state about to run LD VA, 2C under the maximal mode. -/
def maximalAbout : State := { (about 0x6A2C) with
  schedule := [.cpuTick, .cpuTick], cfg := { defaultConfig with quirkMode := .maximal } }
theorem witness_MaximalQuirkModeIsRefused : maximalAbout.cpuTickNext = true ∧ maximalAbout.executes = true ∧
    maximalAbout.cfg.quirkMode = .maximal ∧ maximalAbout.pc.toNat % 2 = 0 ∧ maximalAbout.pc.toNat + 1 < 4096 ∧
    fetched maximalAbout = some (.ldVxKk 0xA 0x2C) := by decide
theorem witness_RetireCountsAndClearsPrevious :
    ((about 0x6A2C).cpuTickNext = true ∧ (about 0x6A2C).executes = true ∧ (about 0x6A2C).cfg.quirkMode = .standard ∧
      ∃ t, step (about 0x6A2C) = .next t ∧ t.fault = none) ∧
    (waiting.cpuTickNext = true ∧ ¬ (waiting.executes = true) ∧ ∃ t, step waiting = .next t) :=
  ⟨⟨rfl, rfl, rfl, _, rfl, rfl⟩, rfl, by decide, _, rfl⟩
theorem witness_UndeliveredTicksChangeNothing :
    ({ State.reset with schedule := [.cpuTick] }.schedActive = false ∧
      { State.reset with schedule := [.cpuTick] }.cpuTickNext = true) ∧
    ({ State.reset with schedule := [.timerTick] }.schedActive = false ∧
      MoveIs { State.reset with schedule := [.timerTick] } .timerTick) := ⟨⟨rfl, rfl⟩, rfl, rfl⟩
/-- A state at the bounds of the invariant: pc at its highest, the stack full. -/
def atBounds : State := { State.reset with pc := 0x10FE, stack := fullStack, schedule := [.cpuTick] }
theorem witness_StepKeepsInvariant_inv : atBounds.Inv where
  memWf := rfl
  pcBound := by simp [atBounds]
  stackBound := by decide
  stackEntries := by simp [atBounds, fullStack, memSize]
  stagedBound := by rintro b ⟨⟩
  faultWf := by rintro r ⟨⟩
  faultPc := by rintro r ⟨⟩
  faultNoWait := by decide
  capKept := by rintro c ⟨⟩
  refusedMode := by decide
theorem witness_StepKeepsInvariant : ∃ t, step atBounds = .next t := ⟨_, rfl⟩
theorem witness_ParametersAndMarksOutliveReset :
    (MoveIs (live [.reset]) .reset ∧ ∃ t, step (live [.reset]) = .next t) ∧
    (MoveLoads (live [.loadRom [1]]) ∧ ∃ t, step (live [.loadRom [1]]) = .next t) ∧
    (∀ m ∈ [Move.start, .stop, .cleanup], MoveIs (live [m]) m) ∧ (∃ t, step (live [.start]) = .next t) ∧
    (∃ t, step (live [.stop]) = .next t) ∧ (∃ t, step (live [.cleanup]) = .next t) :=
  ⟨⟨rfl, _, rfl⟩, ⟨⟨[1], rfl⟩, _, rfl⟩, fun _ _ => rfl, ⟨_, rfl⟩, ⟨_, rfl⟩, _, rfl⟩
theorem witness_RefusalMarkIsSticky : ∃ t, step maximalAbout = .next t ∧ maximalAbout.refused = false ∧
    t.refused = true ∧ ∃ u, step t = .next u := ⟨_, rfl, rfl, rfl, _, rfl⟩
theorem witness_StagedRomWrittenOnlyByLoad : (∃ t, step (live [.loadRom [1]]) = .next t) ∧
    MoveIs (live [.loadRom [1]]) (.loadRom [1]) ∧ ¬ MoveLoads (live [.reset]) :=
  ⟨⟨_, rfl⟩, rfl, by rintro ⟨b, h⟩; exact absurd h (by simp [live, State.nextMove])⟩
theorem witness_DisplayWrittenOnlyByClsAndDrw : ∃ t, step (ringAt.withFetchWord 16 0xD013) = .next t ∧
    t.fb ≠ (ringAt.withFetchWord 16 0xD013).fb :=
  ⟨_, rfl, fun h => absurd (congrArg (fun fb : Framebuffer => fb.cell 5 10) h) (by decide)⟩
/-- A state about to store V0 = 11 at 0x400. -/
def storing : State := { (withRegs [(0, 0x11)]) with i := 0x400 }.withFetchWord 16 0xF055
theorem witness_MemoryWrittenOnlyByStores : ∃ t, step storing = .next t ∧ t.byteAt 0x400 ≠ storing.byteAt 0x400 :=
  ⟨_, rfl, by decide⟩
theorem witness_StackWrittenOnlyByCallAndRet : ∃ t, step (about 0x2300) = .next t ∧ t.stack ≠ (about 0x2300).stack :=
  ⟨_, rfl, by decide⟩
theorem witness_NoInstructionReadsSoundTimer : (∃ t, exec (.ldStVx 2) State.reset = .next t) ∧
    ∃ t, exec (.ldVxDt 2) State.reset = .next t := ⟨⟨_, rfl⟩, _, rfl⟩
theorem witness_NoInstructionReadsControlState : ∃ t, exec .ret State.reset = .next t := ⟨_, rfl⟩
theorem witness_JumpsSetPc : (0x0E1#12 ≠ 0x0E0#12) ∧ (0x0E1#12 ≠ 0x0EE#12) := by decide
theorem witness_AddWritesSumThenCarry : (14 : Reg) ≠ 15 := by decide
theorem witness_SubtractsWriteDifferenceThenNoBorrow : (14 : Reg) ≠ 15 := by decide
theorem witness_ShiftsWriteResultThenBitOut : (14 : Reg) ≠ 15 := by decide
theorem witness_RandomByteIsMasked : (0 : Byte) = 0 ∧ (0xFF : Byte) = 0xFF := by decide
theorem witness_CallPushesAndRetPops : State.reset.stack.length < 16 ∧
    { State.reset with stack := [0x400, 0x202] }.stack = [0x400] ++ [0x202] ∧
    { State.reset with stack := List.replicate 15 0x202 }.stack.length < 16 := by decide
theorem witness_StackFaultsRaise : { State.reset with stack := fullStack }.stack.length = 16 ∧ State.reset.stack = [] := by
  decide
theorem witness_RetUndoesCall : State.reset.stack.length < 16 ∧
    ∃ t, exec (.call 0x300) { State.reset with pc := 0x202 } = .next t ∧
      { State.reset with stack := [0x202] }.stack = t.stack := ⟨by decide, _, rfl, rfl⟩
theorem witness_KeySkips : ((withRegs [(0, 15)]).reg 0).toNat = (15 : Key).val ∧
    15 < ((withRegs [(0, 16)]).reg 0).toNat := by decide
theorem witness_DrwXorsTheSprite : (0 : BitVec 4) = 0 ∧
    { State.reset with i := 0xFF1 }.i.toNat + (15 : BitVec 4).toNat ≤ 4096 := by decide
theorem witness_DrwOutOfRangeRaises : (15 : BitVec 4) ≠ 0 ∧
    4096 < { State.reset with i := 0xFF2 }.i.toNat + (15 : BitVec 4).toNat := by decide
theorem witness_TimerTickCountsDown : MoveIs (live [.timerTick]) .timerTick ∧
    (live [.timerTick]).schedActive = true := ⟨rfl, rfl⟩
theorem witness_KeyEventsSnapshotThenSet : MoveIs (live [.keyDown 15]) (if true then .keyDown 15 else .keyUp 15) ∧
    MoveIs (live [.keyUp 0]) (if false then .keyDown 0 else .keyUp 0) := ⟨rfl, rfl⟩
theorem witness_BcdStoresThreeDigits : { State.reset with i := 0xFFD }.i.toNat + 3 ≤ 4096 := by decide
theorem witness_BlockStoreWritesRegisters : { State.reset with i := 0xFF0 }.i.toNat + (15 : Reg).val < 4096 := by decide
theorem witness_BlockLoadReadsRegisters : { State.reset with i := 0xFFF }.i.toNat + (0 : Reg).val < 4096 := by decide
theorem witness_TransfersOutOfRangeRaise : 4096 < { State.reset with i := 0xFFE }.i.toNat + 3 ∧
    4096 < { State.reset with i := 0xFFF }.i.toNat + ((1 : Reg).val + 1) := by decide
theorem witness_ResetRestartsTheCore : MoveIs (live [.reset]) .reset := rfl
/-- A loaded core about to be reset. -/
def staged : State := { (State.reset.loadRom [0x12]) with schedule := [.reset] }
theorem witness_ResetInstallsTheImage :
    (MoveIs staged .reset ∧ staged.stagedRom = some [0x12] ∧ ([0x12] : List Byte).length ≤ 3584 ∧
      ∃ t, step staged = .next t) ∧
    (MoveIs (live [.reset]) .reset ∧ (live [.reset]).stagedRom = none ∧ ∃ t, step (live [.reset]) = .next t) :=
  ⟨⟨rfl, rfl, by decide, _, rfl⟩, rfl, rfl, _, rfl⟩
theorem witness_LoadIsResetOfTheNewRom : MoveIs (live [.loadRom [0x12]]) (.loadRom [0x12]) := rfl
theorem witness_EndOfRunRepeatsItself : (about 0x1200).endOfRun = true ∧ (about 0x1200).cpuTickNext = true ∧
    (about 0x1200).schedActive = true ∧ (about 0x1200).cfg.quirkMode = .standard := by decide
/-- A self-jump whose cycle cap is reached is not the end of a run; one instruction before the cap it is (R319 (4)). -/
theorem test_end_of_run_under_cap :
    { (about 0x1200) with cycleCount := 3, cfg := { defaultConfig with cycleCap := some 3 } }.endOfRun = false ∧
    { (about 0x1200) with cycleCount := 2, cfg := { defaultConfig with cycleCap := some 3 } }.endOfRun = true := by decide
/-- The host's moves are taken in the schedule's order (R273). -/
theorem test_two_moves : { (live [.timerTick, .timerTick]) with dt := 5 }.moveAt 1 = .timerTick ∧
    (steps 2 { (live [.timerTick, .timerTick]) with dt := 5 }).map (·.dt) = some 3 := ⟨rfl, rfl⟩

/-- An order in which the two ticks take turns for ever. -/
def takingTurns (n : Nat) : Move := if n % 2 = 0 then .cpuTick else .timerTick

/-- A faulted core with ticks delivered stays so under that order. -/
theorem faulted_under_takingTurns (n : Nat) : ((faulted []).under takingTurns n).fault ≠ none ∧
    ((faulted []).under takingTurns n).schedActive = true := by
  induction n with
  | zero => exact ⟨by decide, rfl⟩
  | succ n ih =>
    rw [State.under_succ, takingTurns]
    split
    · rw [State.moved_cpuTick_faulted ih.1]; exact ih
    · rw [State.moved_timerTick, ih.2]; exact ih
theorem takingTurns_fair (s : State) : s.WeaklyFair takingTurns := fun n _ =>
  ⟨⟨2 * n, by omega, if_pos (by omega)⟩, 2 * n + 1, by omega, if_neg (by omega)⟩
theorem witness_TimersRunOutWhileFaulted : (faulted []).WeaklyFair takingTurns ∧
    ∀ n, ((faulted []).under takingTurns n).fault ≠ none ∧ ((faulted []).under takingTurns n).schedActive = true :=
  ⟨takingTurns_fair _, faulted_under_takingTurns⟩

end Sys2Proof.Tests
end

section
/-! Retirement (40_fetch_execute.md R118): which CPU ticks add one to cycle_count and clear the keypad's snapshot. -/

namespace Sys2Proof.Machine

/-- The retirement step of R118 was performed between `s` and `t` where `done` holds, and neither of its writes was
made where it does not. -/
def RetiresExactlyWhen (done : Prop) (s t : State) : Prop :=
  (done → t.cycleCount = s.cycleCount + 1 ∧ t.prev = Vector.replicate 16 false) ∧
  (¬ done → t.cycleCount = s.cycleCount ∧ t.prev = s.prev)

theorem RetiresExactlyWhen.of_retired {done : Prop} {s t : State} (hd : done) (hc : t.cycleCount = s.cycleCount + 1)
    (hp : t.prev = Vector.replicate 16 false) : RetiresExactlyWhen done s t :=
  ⟨fun _ => ⟨hc, hp⟩, fun hn => absurd hd hn⟩

theorem RetiresExactlyWhen.of_kept {done : Prop} {s t : State} (hn : ¬ done) (hc : t.cycleCount = s.cycleCount)
    (hp : t.prev = s.prev) : RetiresExactlyWhen done s t :=
  ⟨fun hd => absurd hd hn, fun _ => ⟨hc, hp⟩⟩

theorem RetiresExactlyWhen.congr {p q : Prop} {s t : State} (h : RetiresExactlyWhen p s t) (hpq : q ↔ p) :
    RetiresExactlyWhen q s t := by
  rwa [propext hpq]

/-- Execute itself neither counts nor clears, whether the instruction completes or raises: retiring is the tick's. -/
theorem exec_keeps_cycleCount_prev {i : Instr} {s t : State} (h : exec i s = .next t) :
    t.cycleCount = s.cycleCount ∧ t.prev = s.prev := by
  rcases exec_cases h with ⟨c, a, rfl, -⟩ | hk
  · exact ⟨rfl, rfl⟩
  · exact ⟨hk.cycleCount, hk.prev⟩

/-- A fetch and execute retires exactly when the mode gives its instruction a meaning and nothing was raised. -/
theorem State.fetchExecute_retires {s t : State} (h : s.fetchExecute = .next t) :
    RetiresExactlyWhen (s.cfg.quirkMode = .standard ∧ t.fault = none) s t := by
  rcases s.fetchExecute_cases h with ⟨c, a, -, rfl⟩ | ⟨-, -, rfl⟩ | ⟨-, -, hq, rfl⟩ | ⟨i, u, -, -, hq, hx, rfl⟩
  · exact .of_kept (by simp) rfl rfl
  · exact .of_kept (by simp) rfl rfl
  · exact .of_kept (by simp [hq]) rfl rfl
  · obtain ⟨hc, hp⟩ := exec_keeps_cycleCount_prev hx
    cases hu : u.fault with
    | none => exact .of_retired ⟨hq, hu⟩ (congrArg (· + 1) hc) rfl
    | some r => exact .of_kept (by simp [hu]) hc hp

/-- A poll may end the wait, but it neither counts nor clears (R112). -/
theorem State.pollKeyWait_keeps_cycleCount_prev (s : State) (r : Reg) :
    (s.pollKeyWait r).cycleCount = s.cycleCount ∧ (s.pollKeyWait r).prev = s.prev := by
  rcases s.pollKeyWait_cases r with ⟨k, -, h⟩ | ⟨-, h⟩ <;> rw [h] <;> exact ⟨rfl, rfl⟩

/-- A tick executes under exactly the five conditions of R110 to R113. -/
theorem State.executes_iff (s : State) : s.executes = true ↔ s.schedActive = true ∧ s.fault = none ∧
    s.future = .inactive ∧ s.running = true ∧ s.capHit = false := by
  simp [State.executes, and_assoc]

/-- The CPU move retires exactly when its tick executes an instruction that completes (R110 to R113, R118, R272). -/
theorem State.runMove_cpuTick_retires {s t : State} (h : s.runMove .cpuTick = .next t) :
    RetiresExactlyWhen (s.executes = true ∧ s.cfg.quirkMode = .standard ∧ t.fault = none) s t := by
  cases ha : s.schedActive with
  | false =>
    rw [State.runMove, ha] at h
    cases h
    exact .of_kept (by simp [State.executes_iff, ha]) rfl rfl
  | true =>
    rw [State.runMove, ha] at h
    rcases State.cpuTick_cases h with ⟨rfl, hidle⟩ | ⟨r, -, hw, rfl⟩ | ⟨hf, hw, hr, hc, hx⟩
    · refine .of_kept (fun ⟨he, _⟩ => ?_) rfl rfl
      obtain ⟨-, hf, -, hr, hc⟩ := t.executes_iff.1 he
      simp [hf, hr, hc] at hidle
    · obtain ⟨hc, hp⟩ := s.pollKeyWait_keeps_cycleCount_prev r
      exact .of_kept (by simp [State.executes_iff, hw]) hc hp
    · exact (State.fetchExecute_retires hx).congr (and_iff_right (s.executes_iff.2 ⟨ha, hf, hw, hr, hc⟩))

/-- Settles O16: of all the ways a CPU tick can go, only an execution that completes reaches the retirement step. -/
theorem retireCountsAndClearsPrevious : Obligations.RetireCountsAndClearsPrevious := by
  intro s t hm h
  rw [step_eq, eq_of_beq hm] at h
  obtain ⟨hdone, hkept⟩ := State.runMove_cpuTick_retires h
  refine ⟨fun hd => ?_, hkept⟩
  obtain ⟨hc, hp⟩ := hdone hd
  exact ⟨hc, fun k => by simp [State.prevAt, hp]⟩

end Sys2Proof.Machine
end

section
/-! Control flow (41_control_flow.md): the jumps and the compare-and-skip instructions write pc alone. -/

namespace Sys2Proof.Machine

open Sys2Proof.Claims

/-! ### The frame of a write to pc -/

theorem onlyPc_setPc (s : State) (p : Word16) : OnlyPc s { s with pc := p } := ⟨fun _ => rfl, fun _ => rfl, rfl⟩

/-- A skip, taken or not, is a write to pc (R121). -/
theorem onlyPc_skipIf (s : State) (c : Bool) : OnlyPc s (s.skipIf c) := by
  cases c
  case false => exact onlyPc_setPc s s.pc
  case true => exact onlyPc_setPc s (s.pc + 2)

/-- What an instruction does that is a skip on `c`, where `c` decides `p`: the pc of R135 to R138 and the frame. -/
theorem skips_of_exec {i : Instr} {s : State} {c : Bool} {p : Prop} [Decidable p]
    (hx : exec i s = .next (s.skipIf c)) (hc : c = true ↔ p) :
    ∃ t, exec i s = .next t ∧ t.pc = (if p then s.pc + 2 else s.pc) ∧ OnlyPc s t :=
  ⟨s.skipIf c, hx, by simp [hc], onlyPc_skipIf s c⟩

/-! ### Jump targets -/

@[simp] theorem zext16_toNat (nnn : BitVec 12) : (zext16 nnn).toNat = nnn.toNat :=
  BitVec.toNat_setWidth_of_le (by decide)

/-- `trunc16` in R133 truncates nothing: a 12-bit address plus a byte is at most 4095 + 255. -/
theorem jpV0_target_toNat (nnn : BitVec 12) (b : Byte) :
    (trunc16 (((zext16 nnn).toNat + b.toNat : Nat) : Int)).toNat = nnn.toNat + b.toNat := by
  have hn := nnn.isLt
  have hb := b.isLt
  rw [trunc16_natCast, BitVec.toNat_ofNat, zext16_toNat]
  omega

/-! ### Decoding -/

/-- A word of the 0 group is SYS unless it is the word of CLS or of RET (R84). -/
theorem decode_wordNnn_zero {nnn : BitVec 12} (hcls : nnn ≠ 0x0E0#12) (hret : nnn ≠ 0x0EE#12) :
    decode (wordNnn 0x0 nnn) = some (.sys nnn) := by
  have hc : wordNnn 0x0 nnn ≠ 0x00E0#16 := fun h => hcls (wordNnn_inj (op' := 0x0) (n' := 0x0E0) h).2
  have hr : wordNnn 0x0 nnn ≠ 0x00EE#16 := fun h => hret (wordNnn_inj (op' := 0x0) (n' := 0x0EE) h).2
  rw [decode, if_neg hc, if_neg hr]
  simp [decodeByOp]

/-! ### The statements -/

/-- Settles O29: the targets of JP and JP V0 are read off `exec`, and the sum of JP V0 stays within 16 bits. -/
theorem jumpsSetPc : Obligations.JumpsSetPc := by
  intro nnn s
  refine ⟨⟨decode_wordNnn_zero, rfl⟩, ⟨?decodeJp, _, rfl, zext16_toNat nnn, onlyPc_setPc s _⟩,
    ⟨?decodeJpV0, _, rfl, jpV0_target_toNat nnn (s.reg 0), onlyPc_setPc s _⟩⟩
  case decodeJp => simp [decode_of_op_ne_zero, decodeByOp]
  case decodeJpV0 => simp [decode_of_op_ne_zero, decodeByOp]

/-- Settles O33: each of the four is `skipIf` of its comparison. -/
theorem compareSkips : Obligations.CompareSkips := by
  intro x y kk s
  refine ⟨⟨?_, skips_of_exec rfl beq_iff_eq⟩, ⟨?_, skips_of_exec rfl bne_iff_ne⟩,
    ⟨?_, skips_of_exec rfl beq_iff_eq⟩, ⟨?_, skips_of_exec rfl bne_iff_ne⟩⟩
  -- what is left are the four encodings: the top nibble is not 0, so it selects the row (R85)
  all_goals simp [decode_of_op_ne_zero, decodeByOp]

end Sys2Proof.Machine
end

section
/-! Arithmetic and logic (42_alu.md): a write to Vx changes Vx alone, a result with a flag changes Vx and VF alone,
and the values are read off the one write each instruction makes. -/

namespace Sys2Proof.Machine

open Sys2Proof.Claims

/-! ### The frames of the two register writes -/

theorem onlyRegs_setReg (s : State) (x : Reg) (b : Byte) : OnlyRegs s (s.setReg x b) [x] :=
  ⟨fun r hr => by rw [State.reg_setReg, if_neg (List.ne_of_not_mem_cons hr)], fun _ => rfl, rfl⟩

theorem onlyRegs_setResultAndFlag (s : State) (x : Reg) (b : Byte) (c : Bool) :
    OnlyRegs s (s.setResultAndFlag x b c) [x, 15] := by
  refine ⟨fun r hr => ?_, fun _ => rfl, rfl⟩
  obtain ⟨hx, hF⟩ : r ≠ x ∧ r ≠ regF := by simpa using hr
  rw [State.reg_setResultAndFlag, if_neg hF, if_neg hx]

/-! ### What the two registers read afterwards -/

theorem State.reg_setReg_self (s : State) (x : Reg) (b : Byte) : (s.setReg x b).reg x = b := by simp

/-- VF reads as the flag for every x, F included (R120). -/
theorem State.reg_regF_setResultAndFlag (s : State) (x : Reg) (b : Byte) {c : Bool} {p : Prop} [Decidable p]
    (hc : c = true ↔ p) : (s.setResultAndFlag x b c).reg 15 = bit p := by
  simp [State.reg_setResultAndFlag, bit, hc]

/-- Vx reads as the result unless the flag overwrote it (R120). -/
theorem State.reg_setResultAndFlag_of_ne (s : State) {x : Reg} (b : Byte) (c : Bool) (h : x ≠ 15) :
    (s.setResultAndFlag x b c).reg x = b := by
  simp [State.reg_setResultAndFlag, h]

/-! ### Results and flags as natural numbers -/

theorem carry_iff {a b : Byte} : carry a b = true ↔ 255 < a.toNat + b.toNat := decide_eq_true_iff

theorem noBorrow_iff {a b : Byte} : noBorrow a b = true ↔ b.toNat < a.toNat := decide_eq_true_iff

theorem toNat_trunc8_add (a b : Byte) :
    (trunc8 ((a.toNat + b.toNat : Nat) : Int)).toNat = (a.toNat + b.toNat) % 256 := by
  rw [trunc8_add, BitVec.toNat_add]

theorem toNat_trunc8_sub (a b : Byte) :
    (trunc8 ((a.toNat : Int) - b.toNat)).toNat = (a.toNat + 256 - b.toNat) % 256 := by
  have hb := b.isLt
  rw [trunc8_sub, BitVec.toNat_sub]
  omega

theorem shiftedOutLow_iff {a : Byte} : shiftedOutLow a = true ↔ a.toNat % 2 = 1 := by
  simp [shiftedOutLow, BitVec.getLsbD, Nat.testBit_zero]

theorem shiftedOutHigh_iff {a : Byte} : shiftedOutHigh a = true ↔ a.toNat / 128 = 1 := by
  have ha := a.isLt
  have hq : a.toNat / 128 % 2 = a.toNat / 128 := by omega
  simp [shiftedOutHigh, BitVec.getLsbD, Nat.testBit_eq_decide_div_mod_eq, hq]

/-- A flag that is one digit of a number reads as that digit. -/
theorem bit_eq_one_toNat {d : Nat} (h : d < 2) : (bit (d = 1)).toNat = d := by
  obtain rfl | rfl : d = 0 ∨ d = 1 := by omega
  · rfl
  · rfl

/-! ### Decoding -/

/-- The register forms of this family share one group, told apart by the low nibble (R85). -/
theorem decode_of_op_eq_eight {w : Word16} (h : opField w = 8#4) : decode w = decodeGroup8 w := by
  simp [decode_of_op_ne_zero, decodeByOp, h]

/-! ### The statements -/

/-- Settles O35: each load is `setReg` of its operand. -/
theorem loadsWriteVx : Obligations.LoadsWriteVx := by
  intro x y kk s
  refine ⟨⟨?decodeByte, _, rfl, s.reg_setReg_self x _, onlyRegs_setReg s x _⟩,
    ⟨?decodeReg, _, rfl, s.reg_setReg_self x _, onlyRegs_setReg s x _⟩⟩
  case decodeByte => simp [decode_of_op_ne_zero, decodeByOp]
  case decodeReg => simp [decode_of_op_eq_eight, decodeGroup8]

/-- Settles O36: the write is `setReg` of the truncated sum, with no flag after it. -/
theorem addImmediateHasNoFlag : Obligations.AddImmediateHasNoFlag := by
  intro x kk s
  refine ⟨?decode, _, rfl, ?sum, onlyRegs_setReg s x _⟩
  case decode => simp [decode_of_op_ne_zero, decodeByOp]
  case sum => rw [State.reg_setReg_self, toNat_trunc8_add]

/-- Settles O37: each is `setReg` of the bitwise operation on the two operands. -/
theorem bitwiseInstructions : Obligations.BitwiseInstructions := by
  intro x y s
  refine ⟨⟨?_, _, rfl, onlyRegs_setReg s x _, fun b => ?or⟩, ⟨?_, _, rfl, onlyRegs_setReg s x _, fun b => ?and⟩,
    ⟨?_, _, rfl, onlyRegs_setReg s x _, fun b => ?xor⟩⟩
  case or => rw [State.reg_setReg_self, BitVec.getLsbD_or]
  case and => rw [State.reg_setReg_self, BitVec.getLsbD_and]
  case xor => rw [State.reg_setReg_self, BitVec.getLsbD_xor]
  -- what is left are the three encodings (R85)
  all_goals simp [decode_of_op_eq_eight, decodeGroup8]

/-- Settles O38: the sum and the carry are both taken from the operands as they were, and the carry is written last. -/
theorem addWritesSumThenCarry : Obligations.AddWritesSumThenCarry := by
  intro x y s
  refine ⟨?decode, _, rfl, onlyRegs_setResultAndFlag s x _ _, s.reg_regF_setResultAndFlag x _ carry_iff,
    fun hx => ?sum⟩
  case decode => simp [decode_of_op_eq_eight, decodeGroup8]
  case sum => rw [s.reg_setResultAndFlag_of_ne _ _ hx, toNat_trunc8_add]

/-- Settles O39: SUBN is SUB with the operands exchanged, in the difference and in the no-borrow test. -/
theorem subtractsWriteDifferenceThenNoBorrow : Obligations.SubtractsWriteDifferenceThenNoBorrow := by
  intro x y s
  refine ⟨⟨?_, _, rfl, onlyRegs_setResultAndFlag s x _ _, s.reg_regF_setResultAndFlag x _ noBorrow_iff,
      fun hx => ?sub⟩,
    ⟨?_, _, rfl, onlyRegs_setResultAndFlag s x _ _, s.reg_regF_setResultAndFlag x _ noBorrow_iff, fun hx => ?subn⟩⟩
  case sub => rw [s.reg_setResultAndFlag_of_ne _ _ hx, toNat_trunc8_sub]
  case subn => rw [s.reg_setResultAndFlag_of_ne _ _ hx, toNat_trunc8_sub]
  -- what is left are the two encodings (R85)
  all_goals simp [decode_of_op_eq_eight, decodeGroup8]

/-- Settles O40: the bit shifted out is the lowest or the highest binary digit of Vx, and y takes no part. -/
theorem shiftsWriteResultThenBitOut : Obligations.ShiftsWriteResultThenBitOut := by
  intro x y s
  have hlow : (s.reg x).toNat % 2 < 2 := Nat.mod_lt _ (by decide)
  have hhigh : (s.reg x).toNat / 128 < 2 := Nat.div_lt_of_lt_mul (s.reg x).isLt
  refine ⟨⟨?_, _, rfl, onlyRegs_setResultAndFlag s x _ _, ?outLow, fun hx => ?half⟩,
    ⟨?_, _, rfl, onlyRegs_setResultAndFlag s x _ _, ?outHigh, fun hx => ?double⟩⟩
  case outLow => rw [s.reg_regF_setResultAndFlag x _ shiftedOutLow_iff, bit_eq_one_toNat hlow]
  case half => rw [s.reg_setResultAndFlag_of_ne _ _ hx, BitVec.toNat_ushiftRight, Nat.shiftRight_one]
  case outHigh => rw [s.reg_regF_setResultAndFlag x _ shiftedOutHigh_iff, bit_eq_one_toNat hhigh]
  case double => rw [s.reg_setResultAndFlag_of_ne _ _ hx, BitVec.toNat_shiftLeft, Nat.shiftLeft_eq]
  -- what is left are the two encodings (R85)
  all_goals simp [decode_of_op_eq_eight, decodeGroup8]

end Sys2Proof.Machine
end

section
/-! The display (43_display.md): CLS. -/

namespace Sys2Proof.Machine

open Sys2Proof.Claims

/-- Every cell of the display that CLS and reset install is off. -/
@[simp] theorem Framebuffer.cell_off (x : Fin 64) (y : Fin 32) : Framebuffer.off.cell x y = false := by
  rw [Framebuffer.cell, Framebuffer.off, Vector.getElem_replicate, Vector.getElem_replicate]

/-- The word of CLS is tested before all others (R84). -/
theorem decode_cls : decode 0x00E0#16 = some .cls := if_pos rfl

/-- Settles O42: CLS writes `Framebuffer.off` to `fb` whatever `fb` was, and that is its only write. -/
theorem clsTurnsEveryCellOff : Obligations.ClsTurnsEveryCellOff := by
  refine ⟨decode_cls, fun s => ⟨{ s with fb := Framebuffer.off }, rfl, ?cells, ?regs, ?bytes, rfl⟩⟩
  case cells => exact Framebuffer.cell_off
  case regs => exact fun _ => rfl
  case bytes => exact fun _ => rfl

end Sys2Proof.Machine
end

section
/-! Encoding (30_encoding.md): each group of the decoder inverted, the encoder and the decoder as inverses of each
other, and the opcode map as the decoder's other form. -/

namespace Sys2Proof

open Machine

/-! ### Decoding what was encoded (R82, R84) -/

theorem decode_of_op_eq_fourteen {w : Word16} (h : opField w = 14#4) : decode w = decodeGroupE w := by
  simp [decode_of_op_ne_zero, decodeByOp, h]

theorem decode_of_op_eq_fifteen {w : Word16} (h : opField w = 15#4) : decode w = decodeGroupF w := by
  simp [decode_of_op_ne_zero, decodeByOp, h]

/-- Settles O2: the fields of each format read back, and the fixed bits select the instruction's own row. -/
theorem decodeOfEncode : Obligations.DecodeOfEncode := by
  intro i hwf
  cases i
  case cls => exact decode_cls
  case ret => decide
  case sys nnn =>
    obtain ⟨hcls, hret⟩ : nnn ≠ 0x0E0#12 ∧ nnn ≠ 0x0EE#12 := by simpa [Instr.wellFormed] using hwf
    exact decode_wordNnn_zero hcls hret
  -- the 8, E and F groups, each told apart by its function field
  case ldVxVy | orVxVy | andVxVy | xorVxVy | addVxVy | subVxVy | subnVxVy | shrVx | shlVx =>
    simp [encode, decode_of_op_eq_eight, decodeGroup8]
  case skpVx | sknpVx => simp [encode, decode_of_op_eq_fourteen, decodeGroupE]
  case ldVxDt | ldVxK | ldDtVx | ldStVx | addIVx | ldFVx | ldBVx | ldIVx | ldVxI =>
    simp [encode, decode_of_op_eq_fifteen, decodeGroupF]
  -- the rows that the top nibble selects, and the 5 and 9 groups of one row each
  all_goals simp [encode, decode_of_op_ne_zero, decodeByOp]

/-! ### Encoding what was decoded (R81, R82) -/

/-- A word with a known top nibble is its format's word of its own fields. -/
theorem wordNnn_of_op {w : Word16} {op : BitVec 4} (h : opField w = op) : wordNnn op (nnnField w) = w := by
  rw [← h, word_eq_wordNnn]

theorem wordXkk_of_op {w : Word16} {op : BitVec 4} (h : opField w = op) : wordXkk op (xField w) (kkField w) = w := by
  rw [← h, word_eq_wordXkk]

theorem wordXkk_of_fn8 {w : Word16} {op : BitVec 4} {kk : Byte} (h : opField w = op) (hk : kkField w = kk) :
    wordXkk op (xField w) kk = w := by
  rw [← hk, wordXkk_of_op h]

theorem wordXyn_of_op {w : Word16} {op : BitVec 4} (h : opField w = op) :
    wordXyn op (xField w) (yField w) (nField w) = w := by
  rw [← h, word_eq_wordXyn]

theorem wordXyn_of_fn4 {w : Word16} {op n : BitVec 4} (h : opField w = op) (hn : nField w = n) :
    wordXyn op (xField w) (yField w) n = w := by
  rw [← hn, wordXyn_of_op h]

/-- What a decoder's answer must satisfy: it is well formed and `w` is its word. -/
def EncodesTo (i : Instr) (w : Word16) : Prop := i.wellFormed = true ∧ encode i = w

theorem encodesTo_of_decodeGroup8 {w : Word16} {i : Instr} (hop : opField w = 8#4) (h : decodeGroup8 w = some i) :
    EncodesTo i w := by
  unfold decodeGroup8 at h
  split at h <;> cases h
  all_goals
    rename_i hn
    exact ⟨rfl, wordXyn_of_fn4 hop (BitVec.eq_of_toNat_eq hn)⟩

theorem encodesTo_of_decodeGroupE {w : Word16} {i : Instr} (hop : opField w = 14#4) (h : decodeGroupE w = some i) :
    EncodesTo i w := by
  unfold decodeGroupE at h
  split_ifs at h with hk hk <;> cases h <;> exact ⟨rfl, wordXkk_of_fn8 hop hk⟩

theorem encodesTo_of_decodeGroupF {w : Word16} {i : Instr} (hop : opField w = 15#4) (h : decodeGroupF w = some i) :
    EncodesTo i w := by
  unfold decodeGroupF at h
  split_ifs at h <;> cases h <;> rename_i hk <;> exact ⟨rfl, wordXkk_of_fn8 hop hk⟩

/-- The 0 group is SYS for the words that are not CLS or RET: those are the two addresses it excludes (R84). -/
theorem encodesTo_sys {w : Word16} (hcls : w ≠ 0x00E0#16) (hret : w ≠ 0x00EE#16) (hop : opField w = 0#4) :
    EncodesTo (.sys (nnnField w)) w := by
  have hw : wordNnn 0x0 (nnnField w) = w := wordNnn_of_op hop
  have hne : ∀ m : BitVec 12, w ≠ wordNnn 0x0 m → nnnField w ≠ m := fun m hm e => hm (by rw [← e, hw])
  refine ⟨?_, hw⟩
  simp only [Instr.wellFormed, Bool.and_eq_true, bne_iff_ne]
  exact ⟨hne _ hcls, hne _ hret⟩

theorem encodesTo_of_decodeByOp {w : Word16} {i : Instr} (hcls : w ≠ 0x00E0#16) (hret : w ≠ 0x00EE#16)
    (h : decodeByOp w = some i) : EncodesTo i w := by
  unfold decodeByOp at h
  split at h <;> rename_i hop
  -- SYS, the three groups, the rows with fixed low bits, and no row
  case h_1 => cases h; exact encodesTo_sys hcls hret (BitVec.eq_of_toNat_eq hop)
  case h_9 => exact encodesTo_of_decodeGroup8 (BitVec.eq_of_toNat_eq hop) h
  case h_15 => exact encodesTo_of_decodeGroupE (BitVec.eq_of_toNat_eq hop) h
  case h_16 => exact encodesTo_of_decodeGroupF (BitVec.eq_of_toNat_eq hop) h
  case h_6 | h_10 =>
    split_ifs at h with hn
    cases h
    exact ⟨rfl, wordXyn_of_fn4 (BitVec.eq_of_toNat_eq hop) hn⟩
  case h_17 => cases h
  -- the rows that the top nibble selects, by format
  case h_2 | h_3 | h_11 | h_12 => cases h; exact ⟨rfl, wordNnn_of_op (BitVec.eq_of_toNat_eq hop)⟩
  case h_4 | h_5 | h_7 | h_8 | h_13 => cases h; exact ⟨rfl, wordXkk_of_op (BitVec.eq_of_toNat_eq hop)⟩
  case h_14 => cases h; exact ⟨rfl, wordXyn_of_op (BitVec.eq_of_toNat_eq hop)⟩

/-- Settles O3: by the groups of the decoder; a word is its top nibble and the fields its row decodes. -/
theorem encodeOfDecode : Obligations.EncodeOfDecode := by
  intro w i h
  unfold decode at h
  split_ifs at h with hcls hret
  · cases h; exact ⟨rfl, hcls.symm⟩
  · cases h; exact ⟨rfl, hret.symm⟩
  · exact encodesTo_of_decodeByOp hcls hret h

/-! ### The words without a row (R87) -/

theorem decodeGroup8_eq_none_iff {w : Word16} :
    decodeGroup8 w = none ↔ nField w ∈ [0x8#4, 0x9#4, 0xA#4, 0xB#4, 0xC#4, 0xD#4, 0xF#4] := by
  have hsome : ∀ n : BitVec 4, n ∉ [0x8#4, 0x9#4, 0xA#4, 0xB#4, 0xC#4, 0xD#4, 0xF#4] ↔
      n.toNat ∈ [0x0, 0x1, 0x2, 0x3, 0x4, 0x5, 0x6, 0x7, 0xE] := by decide
  rw [← not_iff_not, hsome]
  unfold decodeGroup8
  split <;> simp_all

theorem decodeGroupE_eq_none_iff {w : Word16} : decodeGroupE w = none ↔ kkField w ∉ [0x9E#8, 0xA1#8] := by
  unfold decodeGroupE
  split_ifs <;> simp_all

theorem decodeGroupF_eq_none_iff {w : Word16} : decodeGroupF w = none ↔
    kkField w ∉ [0x07#8, 0x0A#8, 0x15#8, 0x18#8, 0x1E#8, 0x29#8, 0x33#8, 0x55#8, 0x65#8] := by
  unfold decodeGroupF
  split_ifs <;> simp_all

/-- Settles O6: group by group; only the 5, 8, 9, E and F groups leave words out. -/
theorem gapWordsDecodeToNothing : Obligations.GapWordsDecodeToNothing := by
  intro w
  by_cases h0 : opField w = 0#4
  · have : decode w ≠ none := by
      unfold decode
      split_ifs <;> simp [decodeByOp, h0]
    simp [this, h0]
  · rw [decode_of_op_ne_zero h0]
    have hop := opField_cases w
    simp only [List.mem_cons, List.not_mem_nil, or_false] at hop
    rcases hop with h | h | h | h | h | h | h | h | h | h | h | h | h | h | h | h
    all_goals
      simp [decodeByOp, h, decodeGroup8_eq_none_iff, decodeGroupE_eq_none_iff, decodeGroupF_eq_none_iff]

/-! ### The rows of the opcode map (R84 to R86) -/

/-- Two rows that no word matches together: they fix a bit to different values, or one is a single word that the other
excludes (R84). -/
def OpcodeRow.apart (r q : OpcodeRow) : Bool :=
  r.pattern &&& q.mask != q.pattern &&& r.mask || (r.mask == BitVec.allOnes 16 && q.exclude.contains r.pattern)

theorem OpcodeRow.not_matches_of_apart {r q : OpcodeRow} {w : Word16} (h : r.apart q = true)
    (hr : r.matchesWord w = true) (hq : q.matchesWord w = true) : False := by
  simp only [matchesWord, Bool.and_eq_true, beq_iff_eq, Bool.not_eq_true'] at hr hq
  obtain ⟨hrp, -⟩ := hr
  obtain ⟨hqp, hqx⟩ := hq
  simp only [apart, Bool.or_eq_true, bne_iff_ne, Bool.and_eq_true, beq_iff_eq] at h
  rcases h with hbits | ⟨hmask, hexcl⟩
  · apply hbits
    rw [← hrp, ← hqp, BitVec.and_assoc, BitVec.and_assoc, BitVec.and_comm r.mask]
  · rw [hmask, BitVec.and_allOnes] at hrp
    rw [hrp, hexcl] at hqx
    cases hqx

theorem opcodeTable_pairwise_apart : opcodeTable.Pairwise fun r q => r.apart q = true := by decide

/-- A word that matches both rows matches one row twice. -/
def OpcodeRow.SameIfBoth (w : Word16) (r q : OpcodeRow) : Prop :=
  r.matchesWord w = true → q.matchesWord w = true → r = q

theorem OpcodeRow.sameIfBoth_symm (w : Word16) : Std.Symm (OpcodeRow.SameIfBoth w) :=
  ⟨fun _ _ h hq hr => (h hr hq).symm⟩

/-- Settles O5: any two different rows of the table are apart. -/
theorem opcodeRowsMutuallyExclusive : Obligations.OpcodeRowsMutuallyExclusive := by
  refine ⟨rfl, fun w r q hr hq => ?_⟩
  have hpair : opcodeTable.Pairwise (OpcodeRow.SameIfBoth w) :=
    opcodeTable_pairwise_apart.imp fun h hr hq => (OpcodeRow.not_matches_of_apart h hr hq).elim
  have hsymm := OpcodeRow.sameIfBoth_symm w
  exact hpair.forall_of_forall (fun _ _ _ _ => rfl) hr hq

/-! ### The decoder follows the map (R84, R85) -/

/-- The family of `Laws/PerInstr.lean`, over all instructions. -/
theorem encodesItsRow : ∀ i : Instr, Laws.EncodesItsRow.Statement i
  | .cls => Laws.EncodesItsRow.cls
  | .ret => Laws.EncodesItsRow.ret
  | .sys a => Laws.EncodesItsRow.sys a
  | .jp a => Laws.EncodesItsRow.jp a
  | .jpV0 a => Laws.EncodesItsRow.jpV0 a
  | .call a => Laws.EncodesItsRow.call a
  | .seVxKk a b => Laws.EncodesItsRow.seVxKk a b
  | .sneVxKk a b => Laws.EncodesItsRow.sneVxKk a b
  | .seVxVy a b => Laws.EncodesItsRow.seVxVy a b
  | .sneVxVy a b => Laws.EncodesItsRow.sneVxVy a b
  | .ldVxKk a b => Laws.EncodesItsRow.ldVxKk a b
  | .ldVxVy a b => Laws.EncodesItsRow.ldVxVy a b
  | .addVxKk a b => Laws.EncodesItsRow.addVxKk a b
  | .orVxVy a b => Laws.EncodesItsRow.orVxVy a b
  | .andVxVy a b => Laws.EncodesItsRow.andVxVy a b
  | .xorVxVy a b => Laws.EncodesItsRow.xorVxVy a b
  | .addVxVy a b => Laws.EncodesItsRow.addVxVy a b
  | .subVxVy a b => Laws.EncodesItsRow.subVxVy a b
  | .subnVxVy a b => Laws.EncodesItsRow.subnVxVy a b
  | .shrVx a b => Laws.EncodesItsRow.shrVx a b
  | .shlVx a b => Laws.EncodesItsRow.shlVx a b
  | .rndVx a b => Laws.EncodesItsRow.rndVx a b
  | .drw a b c => Laws.EncodesItsRow.drw a b c
  | .skpVx a => Laws.EncodesItsRow.skpVx a
  | .sknpVx a => Laws.EncodesItsRow.sknpVx a
  | .ldVxDt a => Laws.EncodesItsRow.ldVxDt a
  | .ldVxK a => Laws.EncodesItsRow.ldVxK a
  | .ldDtVx a => Laws.EncodesItsRow.ldDtVx a
  | .ldStVx a => Laws.EncodesItsRow.ldStVx a
  | .ldI a => Laws.EncodesItsRow.ldI a
  | .addIVx a => Laws.EncodesItsRow.addIVx a
  | .ldFVx a => Laws.EncodesItsRow.ldFVx a
  | .ldBVx a => Laws.EncodesItsRow.ldBVx a
  | .ldIVx a => Laws.EncodesItsRow.ldIVx a
  | .ldVxI a => Laws.EncodesItsRow.ldVxI a

/-- A word that decodes is the word of its instruction, so it matches the row of that kind. -/
theorem matches_own_row {w : Word16} {i : Instr} (h : decode w = some i) :
    ∃ r ∈ opcodeTable, r.mnemonic = i.mnemonic ∧ r.matchesWord w = true := by
  obtain ⟨hwf, rfl⟩ := encodeOfDecode w i h
  exact encodesItsRow i hwf

/-- The rows have different kind names. -/
theorem opcodeTable_mnemonic_inj : ∀ r ∈ opcodeTable, ∀ q ∈ opcodeTable, r.mnemonic = q.mnemonic → r = q := by
  decide

/-- The mask of an op row keeps the top nibble. -/
theorem opField_of_and {w p : Word16} (h : w &&& 0xF000#16 = p) : opField w = opField p := by
  rw [← h]
  have hw := wordNnn_and_op (opField w) (nnnField w)
  rw [word_eq_wordNnn] at hw
  rw [hw, opField_wordNnn]

/-- The mask of an XYF row keeps the top and the low nibble. -/
theorem fields_of_and_fn4 {w p : Word16} (h : w &&& 0xF00F#16 = p) : opField w = opField p ∧ nField w = nField p := by
  rw [← h]
  have hw := wordXyn_and_fn4 (opField w) (xField w) (yField w) (nField w)
  rw [word_eq_wordXyn] at hw
  rw [hw, opField_wordXyn, nField_wordXyn]
  exact ⟨rfl, rfl⟩

/-- The mask of an XFF row keeps the top nibble and the low byte. -/
theorem fields_of_and_fn8 {w p : Word16} (h : w &&& 0xF0FF#16 = p) : opField w = opField p ∧ kkField w = kkField p := by
  rw [← h]
  have hw := wordXkk_and_fn8 (opField w) (xField w) (kkField w)
  rw [word_eq_wordXkk] at hw
  rw [hw, opField_wordXkk, kkField_wordXkk]
  exact ⟨rfl, rfl⟩

/-- The word decodes to the row's kind. -/
def DecodesTo (w : Word16) (r : OpcodeRow) : Prop := ∃ i, decode w = some i ∧ i.mnemonic = r.mnemonic

theorem OpcodeRow.and_mask_eq {r : OpcodeRow} {w : Word16} (hm : r.matchesWord w = true) :
    w &&& r.mask = r.pattern := by
  simp only [matchesWord, Bool.and_eq_true, beq_iff_eq] at hm
  exact hm.1

/-- CLS, RET and SYS share the 0 group: the first two are single words, SYS is the rest. -/
theorem decodesTo_of_matches_zero {w : Word16} {r : OpcodeRow} (hr : r ∈ opcodeRowsByOp.take 3)
    (hm : r.matchesWord w = true) : DecodesTo w r := by
  have hbits := OpcodeRow.and_mask_eq hm
  simp only [opcodeRowsByOp, List.take_succ_cons, List.take_zero, List.mem_cons, List.not_mem_nil, or_false] at hr
  rcases hr with rfl | rfl | rfl
  · obtain rfl : w = 0x00E0#16 := BitVec.and_allOnes.symm.trans hbits
    exact ⟨.cls, rfl, rfl⟩
  · obtain rfl : w = 0x00EE#16 := BitVec.and_allOnes.symm.trans hbits
    exact ⟨.ret, rfl, rfl⟩
  · have hop := opField_of_and hbits
    obtain ⟨hcls, hret⟩ : w ≠ 0x00E0#16 ∧ w ≠ 0x00EE#16 := by simp_all [OpcodeRow.matchesWord]
    exact ⟨.sys (nnnField w), by rw [decode, if_neg hcls, if_neg hret, decodeByOp, hop]; rfl, rfl⟩

theorem decodesTo_of_matches_byOp {w : Word16} {r : OpcodeRow} (hr : r ∈ opcodeRowsByOp.drop 3)
    (hm : r.matchesWord w = true) : DecodesTo w r := by
  have hbits := OpcodeRow.and_mask_eq hm
  simp only [opcodeRowsByOp, List.drop_succ_cons, List.drop_zero, List.mem_cons, List.not_mem_nil, or_false] at hr
  rcases hr with rfl | rfl | rfl | rfl | rfl | rfl | rfl | rfl | rfl | rfl
  all_goals
    have hop := opField_of_and hbits
    simp only [opField, BitVec.reduceExtractLsb'] at hop
    simp [DecodesTo, decode_of_op_ne_zero, decodeByOp, opField, hop, Instr.mnemonic]

theorem decodesTo_of_matches_byFn4 {w : Word16} {r : OpcodeRow} (hr : r ∈ opcodeRowsByFn4)
    (hm : r.matchesWord w = true) : DecodesTo w r := by
  have hbits := OpcodeRow.and_mask_eq hm
  simp only [opcodeRowsByFn4, List.mem_cons, List.not_mem_nil, or_false] at hr
  rcases hr with rfl | rfl | rfl | rfl | rfl | rfl | rfl | rfl | rfl | rfl | rfl
  all_goals
    obtain ⟨hop, hn⟩ := fields_of_and_fn4 hbits
    simp only [opField, BitVec.reduceExtractLsb'] at hop
    simp only [nField, BitVec.reduceExtractLsb'] at hn
    simp [DecodesTo, decode_of_op_ne_zero, decodeByOp, decodeGroup8, opField, nField, hop, hn, Instr.mnemonic]

theorem decodesTo_of_matches_byFn8 {w : Word16} {r : OpcodeRow} (hr : r ∈ opcodeRowsByFn8)
    (hm : r.matchesWord w = true) : DecodesTo w r := by
  have hbits := OpcodeRow.and_mask_eq hm
  simp only [opcodeRowsByFn8, List.mem_cons, List.not_mem_nil, or_false] at hr
  rcases hr with rfl | rfl | rfl | rfl | rfl | rfl | rfl | rfl | rfl | rfl | rfl
  all_goals
    obtain ⟨hop, hk⟩ := fields_of_and_fn8 hbits
    simp only [opField, BitVec.reduceExtractLsb'] at hop
    simp only [kkField, BitVec.reduceExtractLsb'] at hk
    simp [DecodesTo, decode_of_op_ne_zero, decodeByOp, decodeGroupE, decodeGroupF, opField, kkField, hop, hk,
      Instr.mnemonic]

theorem decodesTo_of_matches {w : Word16} {r : OpcodeRow} (hr : r ∈ opcodeTable) (hm : r.matchesWord w = true) :
    DecodesTo w r := by
  rw [opcodeTable, List.mem_append, List.mem_append, ← List.take_append_drop 3 opcodeRowsByOp, List.mem_append] at hr
  rcases hr with (hr | hr) | hr | hr
  · exact decodesTo_of_matches_zero hr hm
  · exact decodesTo_of_matches_byOp hr hm
  · exact decodesTo_of_matches_byFn4 hr hm
  · exact decodesTo_of_matches_byFn8 hr hm

/-- Settles O4: a decoded word matches its own row, which its kind name identifies, and a word that matches a row has
the fixed bits the decoder tests for that kind. -/
theorem decoderFollowsOpcodeMap : Obligations.DecoderFollowsOpcodeMap := by
  intro w r hr
  refine ⟨fun ⟨i, hi, hmn⟩ => ?_, decodesTo_of_matches hr⟩
  obtain ⟨q, hq, hqi, hqw⟩ := matches_own_row hi
  rwa [opcodeTable_mnemonic_inj r hr q hq (hmn.symm.trans hqi.symm)]

/-! ### Written-out words -/

/-- Settles O1: each word is read by the decoder's own tests. -/
theorem writtenOutWordsDecode : Obligations.WrittenOutWordsDecode := by
  unfold Obligations.WrittenOutWordsDecode
  decide

end Sys2Proof
end

section
/-! The CPU tick (40_fetch_execute.md R110 to R118; 60_exceptions.md R251 to R258, R265 to R267): what each test of the
tick lets through, the tick inverted once, and the statements about one tick. -/

namespace Sys2Proof.Machine

open Sys2Proof.Claims

/-! ### The move of a step (R273) -/

theorem step_of_moveIs {s : State} {m : Move} (h : MoveIs s m) : step s = (afterMove s).runMove m := by
  rw [step_eq, h]; rfl

/-- Whatever a step is, it is the run of some move from the state with that move taken. -/
theorem runMove_of_step {s t : State} (h : step s = .next t) :
    ∃ m, MoveIs s m ∧ (afterMove s).runMove m = .next t :=
  ⟨s.nextMove.1, rfl, (step_of_moveIs rfl).symm.trans h⟩

theorem cpuTickNext_iff {s : State} : s.cpuTickNext = true ↔ MoveIs s .cpuTick := beq_iff_eq

theorem step_of_cpuTickNext {s : State} (h : s.cpuTickNext = true) : step s = (afterMove s).runMove .cpuTick :=
  step_of_moveIs (cpuTickNext_iff.1 h)

/-! ### The tests before the fetch (R110 to R113, R272) -/

theorem State.runMove_cpuTick_of_inactive {s : State} (h : s.schedActive = false) : s.runMove .cpuTick = .next s := by
  simp [State.runMove, h]

theorem State.runMove_cpuTick_of_pending {s : State} {r : Reg} (ha : s.schedActive = true) (hf : s.fault = none)
    (hw : s.future = .pending r) : s.runMove .cpuTick = .next (s.pollKeyWait r) := by
  simp [State.runMove, State.cpuTick, ha, hf, hw]

theorem State.runMove_cpuTick_of_executes {s : State} (h : s.executes = true) :
    s.runMove .cpuTick = s.fetchExecute := by
  obtain ⟨ha, hf, hw, hr, hc⟩ := s.executes_iff.1 h
  simp [State.runMove, State.cpuTick, ha, hf, hw, hr, hc]

theorem State.fault_of_executes {s : State} (h : s.executes = true) : s.fault = none := by
  obtain ⟨-, hf, -⟩ := s.executes_iff.1 h
  exact hf

/-- The cap test of R113, "not reached" as `<` (D21). -/
theorem State.capHit_eq_false_iff {s : State} :
    s.capHit = false ↔ ∀ c, s.cfg.cycleCap = some c → s.cycleCount < c := by
  unfold State.capHit
  cases s.cfg.cycleCap <;> simp

theorem State.capHit_of_le {s : State} {c : Nat} (h : s.cfg.cycleCap = some c) (hc : c ≤ s.cycleCount) :
    s.capHit = true := by
  simp [State.capHit, h, hc]

/-! ### Fetch and decode (R114 to R116) -/

theorem fetchFault_of_odd {p : Word16} (h : p.toNat % 2 = 1) : fetchFault p = some (.misalignedFetch, none) :=
  if_pos h

theorem fetchFault_of_high {p : Word16} (h : p.toNat % 2 = 0) (hp : 4096 ≤ p.toNat + 1) :
    fetchFault p = some (.fetchRange, some p.toNat) := by
  rw [fetchFault, if_neg (by omega), if_pos hp]

theorem fetchFault_eq_none_iff {p : Word16} : fetchFault p = none ↔ p.toNat % 2 = 0 ∧ p.toNat + 1 < 4096 := by
  unfold fetchFault
  split_ifs with hodd hhigh <;> simp only [memSize, false_iff, true_iff] at * <;> omega

/-- The record of a fetch fault has the fields of its cause (R252). -/
theorem fetchFault_record_wf {p : Word16} {c : Fault} {a : Option Nat} (h : fetchFault p = some (c, a)) :
    FaultRecord.wf { cause := c, pc := p, word := none, addr := a } = true := by
  unfold fetchFault at h
  split_ifs at h with hodd hhigh <;> cases h
  · simp [FaultRecord.wf, hodd]
  · simp [FaultRecord.wf, hhigh]

theorem State.fetchExecute_of_fetchFault {s : State} {c : Fault} {a : Option Nat} (h : fetchFault s.pc = some (c, a)) :
    s.fetchExecute = .next (s.takeFault s.pc c none a) := by
  simp [State.fetchExecute, h]

theorem State.fetchExecute_of_illegal {s : State} (h : fetchFault s.pc = none) (hd : fetched s = none) :
    s.fetchExecute = .next (s.takeFault s.pc .illegalInstruction (some (s.fetchWord s.pc.toNat)) none) := by
  rw [fetched] at hd
  simp [State.fetchExecute, h, hd]

theorem State.fetchExecute_of_maximal {s : State} {i : Instr} (h : fetchFault s.pc = none) (hd : fetched s = some i)
    (hq : s.cfg.quirkMode = .maximal) : s.fetchExecute = .next s.refuse := by
  rw [fetched] at hd
  simp [State.fetchExecute, h, hd, hq]

theorem State.fetchExecute_of_standard {s : State} {i : Instr} (h : fetchFault s.pc = none) (hd : fetched s = some i)
    (hq : s.cfg.quirkMode = .standard) : s.fetchExecute = retireUnlessFaulted (exec i s.advance) := by
  rw [fetched] at hd
  simp [State.fetchExecute, h, hd, hq]

theorem step_of_executes {s : State} (hm : s.cpuTickNext = true) (he : s.executes = true) :
    step s = (afterMove s).fetchExecute :=
  (step_of_cpuTickNext hm).trans (State.runMove_cpuTick_of_executes (s := afterMove s) he)

/-! ### The tick inverted -/

/-- Everything a CPU move can do, with the state it leaves (R110 to R118, R253, R258, R267, R272). -/
inductive CpuTickCase (s : State) : State → Prop
  /-- Not delivered, faulted, stopped or capped. -/
  | idle : CpuTickCase s s
  | polled (r : Reg) (fault : s.fault = none) (wait : s.future = .pending r) : CpuTickCase s (s.pollKeyWait r)
  /-- By the fetch, by the decoder or by the instruction: the state before with the record. -/
  | raised (r : FaultRecord) (executes : s.executes = true) (pc : r.pc = s.pc) (wf : r.wf = true)
      (word : ∀ w, r.word = some w → w = s.fetchWord s.pc.toNat) : CpuTickCase s { s with fault := some r }
  | refused (executes : s.executes = true) (mode : s.cfg.quirkMode = .maximal) : CpuTickCase s s.refuse
  | completed (i : Instr) (u : State) (executes : s.executes = true) (fetch : fetchFault s.pc = none)
      (decodes : fetched s = some i) (execs : exec i s.advance = .next u) (keeps : KeepsControl s.advance u) :
      CpuTickCase s u.retire

/-- What an instruction's raise leaves: its word is the fetched one, since encoding undoes decoding. -/
theorem CpuTickCase.of_raisedBy {s u : State} {i : Instr} (he : s.executes = true) (hd : fetched s = some i)
    (h : RaisedBy i s.advance u) : CpuTickCase s u := by
  obtain ⟨c, a, rfl, hwf⟩ := h
  rw [State.instrAddr_advance]
  rw [ownRecord, State.instrAddr_advance] at hwf
  refine .raised { cause := c, pc := s.pc, word := some (encode i), addr := a } he rfl hwf fun w hw => ?_
  cases hw
  exact (encodeOfDecode _ i hd).2

theorem State.fetchExecute_cpuTickCase {s t : State} (he : s.executes = true) (h : s.fetchExecute = .next t) :
    CpuTickCase s t := by
  rcases s.fetchExecute_cases h with
    ⟨c, a, hfetch, rfl⟩ | ⟨-, -, rfl⟩ | ⟨-, -, hq, rfl⟩ | ⟨i, u, hfetch, hd, -, hx, rfl⟩
  · exact .raised _ he rfl (fetchFault_record_wf hfetch) (by simp)
  · exact .raised _ he rfl rfl (by simp [eq_comm])
  · exact .refused he hq
  · rcases exec_cases hx with hr | hk
    · have hu : u.fault.isNone = false := by obtain ⟨c, a, rfl, -⟩ := hr; rfl
      rw [hu]
      exact .of_raisedBy he hd hr
    · have hu : u.fault.isNone = true := by
        rw [hk.fault, State.advance_fault, State.fault_of_executes he]; rfl
      rw [hu]
      exact .completed i u he hfetch hd hx hk

theorem State.runMove_cpuTick_cases {s t : State} (h : s.runMove .cpuTick = .next t) : CpuTickCase s t := by
  cases ha : s.schedActive with
  | false => rw [State.runMove_cpuTick_of_inactive ha] at h; cases h; exact .idle
  | true =>
    rw [State.runMove, ha] at h
    rcases State.cpuTick_cases h with ⟨rfl, -⟩ | ⟨r, hf, hw, rfl⟩ | ⟨hf, hw, hr, hc, hx⟩
    · exact .idle
    · exact .polled r hf hw
    · exact State.fetchExecute_cpuTickCase (s.executes_iff.2 ⟨ha, hf, hw, hr, hc⟩) hx

theorem cpuTickCase_of_step {s t : State} (hm : s.cpuTickNext = true) (h : step s = .next t) :
    CpuTickCase (afterMove s) t :=
  State.runMove_cpuTick_cases ((step_of_cpuTickNext hm).symm.trans h)

/-! ### Statements about the fetch and the run gate -/

/-- A big-endian word is its high byte times 256 plus its low byte (R56). -/
theorem State.fetchWord_toNat (s : State) (a : Nat) :
    (s.fetchWord a).toNat = 256 * (s.byteAt a).toNat + (s.byteAt (a + 1)).toNat := by
  have hlo := (s.byteAt (a + 1)).isLt
  rw [State.fetchWord, wordOfBytes, BitVec.toNat_append, ← Nat.shiftLeft_add_eq_or_of_lt hlo, Nat.shiftLeft_eq]
  omega

/-- The tick retires what it executed unless the instruction raised (R118, R253). -/
theorem retireUnlessFaulted_next (t : State) :
    retireUnlessFaulted (.next t) = .next (if t.fault = none then t.retire else t) := by
  cases hf : t.fault <;> simp [retireUnlessFaulted, hf]

/-- Settles O7: the tick passes its tests one by one, and retiring is the tick's own last test. -/
theorem stepRunsDecodedInstruction : Obligations.StepRunsDecodedInstruction := by
  refine ⟨State.fetchWord_toNat, fun s i t hm he hq heven hlow hd hx => ?_⟩
  rw [step_of_executes hm he,
    State.fetchExecute_of_standard (s := afterMove s) (fetchFault_eq_none_iff.2 ⟨heven, hlow⟩) hd hq]
  change retireUnlessFaulted (exec i { afterMove s with pc := s.pc + 2 }) = _
  rw [hx, retireUnlessFaulted_next]
  rfl

/-- Settles O8: the alignment test comes first. -/
theorem fetchAddressFaults : Obligations.FetchAddressFaults := by
  intro s hm he
  rw [step_of_executes hm he]
  exact ⟨fun hodd => State.fetchExecute_of_fetchFault (s := afterMove s) (fetchFault_of_odd hodd),
    fun heven hhigh => State.fetchExecute_of_fetchFault (s := afterMove s) (fetchFault_of_high heven hhigh)⟩

/-- Settles O9: no row, so the word is recorded before the mode is looked at. -/
theorem illegalWordRaises : Obligations.IllegalWordRaises := by
  intro s hm he heven hlow hd
  rw [step_of_executes hm he]
  exact State.fetchExecute_of_illegal (s := afterMove s) (fetchFault_eq_none_iff.2 ⟨heven, hlow⟩) hd

/-- Settles O10: a tick that raises is the one case of the tick that leaves a record. -/
theorem faultsArePrecise : Obligations.FaultsArePrecise := by
  intro s t hm hf h hfault
  cases cpuTickCase_of_step hm h with
  | idle => exact absurd hf hfault
  | polled r _ _ =>
    rcases (afterMove s).pollKeyWait_cases r with ⟨k, -, hp⟩ | ⟨-, hp⟩ <;> rw [hp] at hfault <;> exact absurd hf hfault
  | raised r _ hpc hwf hword => exact ⟨r, rfl, hpc, hwf, hword⟩
  | refused _ _ => exact absurd hf hfault
  | completed i u _ _ _ _ hk => exact absurd (hk.fault.trans hf) hfault

/-- Settles O14: either test of the run gate fails. -/
theorem runGateHoldsExecution : Obligations.RunGateHoldsExecution := by
  intro s hm hf hw hgate
  have hgate : ((afterMove s).running && !(afterMove s).capHit) = false := by
    rcases hgate with hr | ⟨c, hc, hle⟩
    · rw [show (afterMove s).running = false from hr, Bool.false_and]
    · rw [State.capHit_of_le (s := afterMove s) hc hle, Bool.not_true, Bool.and_false]
  rw [step_of_cpuTickNext hm]
  have hf : (afterMove s).fault = none := hf
  have hw : (afterMove s).future = .inactive := hw
  simp [State.runMove, State.cpuTick, hf, hw, hgate]

/-- Settles O15: under the maximal mode the tick stops at the mode test. -/
theorem maximalQuirkModeIsRefused : Obligations.MaximalQuirkModeIsRefused := by
  intro s i hm he hq heven hlow hd
  rw [step_of_executes hm he]
  exact State.fetchExecute_of_maximal (s := afterMove s) (fetchFault_eq_none_iff.2 ⟨heven, hlow⟩) hd hq

/-- Settles O17: delivery is the first test of either tick. -/
theorem undeliveredTicksChangeNothing : Obligations.UndeliveredTicksChangeNothing := by
  intro s ha hm
  rcases hm with hm | hm
  · rw [step_of_cpuTickNext hm]
    exact State.runMove_cpuTick_of_inactive (s := afterMove s) ha
  · rw [step_of_moveIs hm, State.runMove, show (afterMove s).schedActive = false from ha]
    rfl

/-! ### Statements about the key wait (R112, R265, R267) -/

theorem State.released_eq_true_iff {s : State} {k : Key} :
    s.released k = true ↔ s.prevAt k = true ∧ s.keyAt k = false := by
  simp [State.released]

/-- The scan is ascending, so no key below the one it finds has a release edge (R265, D17). -/
theorem State.not_released_of_lt_keyReleased {s : State} {j k : Key} (h : s.keyReleased = some k) (hj : j < k) :
    s.released j = false := by
  obtain ⟨-, before, after, hsplit, hbefore⟩ := List.find?_eq_some_iff_append.1 h
  have hsorted := allKeys_sorted
  rw [hsplit, List.pairwise_append, List.pairwise_cons] at hsorted
  obtain ⟨-, ⟨hafter, -⟩, -⟩ := hsorted
  have hmem := mem_allKeys j
  rw [hsplit, List.mem_append, List.mem_cons] at hmem
  rcases hmem with hmem | rfl | hmem
  · simpa using hbefore j hmem
  · exact absurd hj (lt_irrefl j)
  · exact absurd (hafter j hmem) (lt_asymm hj)

theorem State.keyReleased_eq_of_smallest {s : State} {k : Key} (hk : s.released k = true)
    (hmin : ∀ j, j < k → s.released j = false) : s.keyReleased = some k := by
  cases h : s.keyReleased with
  | none => rw [State.keyReleased_none.1 h k] at hk; cases hk
  | some q =>
    rcases lt_trichotomy q k with hq | rfl | hq
    · have := State.released_of_keyReleased h
      rw [hmin q hq] at this; cases this
    · rfl
    · rw [State.not_released_of_lt_keyReleased h hq] at hk; cases hk

theorem State.pollKeyWait_of_some {s : State} {k : Key} (r : Reg) (h : s.keyReleased = some k) :
    s.pollKeyWait r = { s.setReg r (BitVec.ofNat 8 k.val) with future := .inactive } := by
  rw [State.pollKeyWait, h]

theorem State.pollKeyWait_of_none {s : State} (r : Reg) (h : s.keyReleased = none) : s.pollKeyWait r = s := by
  rw [State.pollKeyWait, h]

/-- A key number is a byte. -/
theorem keyByte_toNat (k : Key) : (BitVec.ofNat 8 k.val).toNat = k.val :=
  Nat.mod_eq_of_lt (by have := k.isLt; omega)

/-- A register read after the poll that took key k. -/
theorem State.reg_pollKeyWait_of_some {s : State} {k : Key} (r q : Reg) (h : s.keyReleased = some k) :
    (s.pollKeyWait r).reg q = if q = r then BitVec.ofNat 8 k.val else s.reg q := by
  rw [State.pollKeyWait_of_some r h, ← State.reg_setReg]
  exact State.reg_congr rfl q

/-- Settles O12: the two cases of the poll. -/
theorem pendingWaitOnlyPolls : Obligations.PendingWaitOnlyPolls := by
  intro s t r hm ha hf hw h
  rw [step_of_cpuTickNext hm, State.runMove_cpuTick_of_pending (s := afterMove s) ha hf hw] at h
  cases h
  cases hscan : (afterMove s).keyReleased with
  | some k =>
    refine ⟨by rw [State.pollKeyWait_of_some r hscan]; rfl, fun q hq => ?_,
      fun _ => by rw [State.pollKeyWait_of_some r hscan]; rfl, .inl (by rw [State.pollKeyWait_of_some r hscan])⟩
    rw [State.reg_pollKeyWait_of_some r q hscan, if_neg hq]
    rfl
  | none =>
    rw [State.pollKeyWait_of_none r hscan]
    exact ⟨rfl, fun _ _ => rfl, fun _ => rfl, .inr ⟨hw, rfl⟩⟩

/-- Settles O13: the scan's answer is the smallest key with a release edge, if there is one. -/
theorem pollTakesSmallestReleasedKey : Obligations.PollTakesSmallestReleasedKey := by
  intro s r hm ha hf hw
  rw [step_of_cpuTickNext hm, State.runMove_cpuTick_of_pending (s := afterMove s) ha hf hw]
  refine ⟨fun k hk hmin => ?_, fun hnone => ?_⟩
  · have hscan : (afterMove s).keyReleased = some k :=
      State.keyReleased_eq_of_smallest (State.released_eq_true_iff.2 hk) fun j hj =>
        Bool.eq_false_iff.2 fun hr => hmin j hj (State.released_eq_true_iff.1 hr)
    refine ⟨_, rfl, ?_, by rw [State.pollKeyWait_of_some r hscan], fun q hq => ?_,
      by rw [State.pollKeyWait_of_some r hscan]; rfl⟩
    · rw [State.reg_pollKeyWait_of_some r r hscan, if_pos rfl, keyByte_toNat]
    · rw [State.reg_pollKeyWait_of_some r q hscan, if_neg hq]
      rfl
  · have hscan : (afterMove s).keyReleased = none :=
      State.keyReleased_none.2 fun k => Bool.eq_false_iff.2 fun hr => hnone k (State.released_eq_true_iff.1 hr)
    rw [State.pollKeyWait_of_none r hscan]

end Sys2Proof.Machine
end

section
/-! What an instruction writes (41_control_flow.md to 45_index_memory.md): one inversion of Execute by the fields it
wrote, and the whole-machine statements that follow from it and from the inversion of the tick (10_state.md,
60_exceptions.md, 70_reset_and_hazards.md). -/

namespace Sys2Proof.Machine

open Sys2Proof.Claims

/-! ### Execute by what it writes -/

/-- What Execute leaves after an instruction, by the fields written. -/
inductive Effect (i : Instr) (s t : State) : Prop
  | raised (c : Fault) (a : Option Nat) (h : s.raise c (encode i) a = .next t)
  | regs (h : t = { s with v := t.v, rndCount := t.rndCount })
  /-- SYS, the jumps and the skips (R130, R132, R133, R121): pc stays, moves on by 2, or is a jump target. -/
  | pc (h : t = { s with pc := t.pc }) (target : t.pc = s.pc ∨ t.pc = s.pc + 2 ∨ t.pc.toNat ≤ 0x10FE)
  | call (nnn : BitVec 12) (instr : i = .call nnn) (room : s.stack.length ≠ stackDepth)
      (h : t = { s with pc := zext16 nnn, stack := s.stack ++ [s.pc] })
  | ret (instr : i = .ret) (popped : s.stack = t.stack ++ [t.pc]) (h : t = { s with pc := t.pc, stack := t.stack })
  | display (instr : i = .cls ∨ ∃ x y n, i = .drw x y n) (h : t = { s with fb := t.fb, v := t.v })
  | index (h : t = { s with i := t.i })
  | timers (h : t = { s with dt := t.dt, st := t.st })
  | wait (h : t = { s with future := t.future })
  /-- LD B and LD [I] (R223, R224): bytes from I on. -/
  | store (bs : List Byte) (instr : (∃ x, i = .ldBVx x ∧ bs.length = 3) ∨ ∃ x, i = .ldIVx x ∧ bs.length = x.val + 1)
      (h : t = { s with mem := t.mem })
      (bytes : ∀ c, t.byteAt c = if s.i.toNat ≤ c then (bs[c - s.i.toNat]?).getD (s.byteAt c) else s.byteAt c)
      (wf : Memory.wf s.cfg.fontGlyphs s.mem = true → Memory.wf s.cfg.fontGlyphs t.mem = true)

theorem Effect.of_skipIf {i : Instr} (s : State) (c : Bool) : Effect i s (s.skipIf c) := by
  cases c
  case false => exact .pc rfl (.inl rfl)
  case true => exact .pc rfl (.inr (.inl rfl))

theorem Effect.of_jump {i : Instr} (s : State) {p : Word16} (h : p.toNat ≤ 0x10FE) : Effect i s { s with pc := p } :=
  .pc rfl (.inr (.inr h))

/-- A jump to an address field stays within it (R132, R134). -/
theorem zext16_le (nnn : BitVec 12) : (zext16 nnn).toNat ≤ 0x10FE := by
  have := nnn.isLt
  rw [zext16_toNat]; omega

theorem jpV0_target_le (nnn : BitVec 12) (b : Byte) :
    (trunc16 (((zext16 nnn).toNat + b.toNat : Nat) : Int)).toNat ≤ 0x10FE := by
  have hn := nnn.isLt
  have hb := b.isLt
  rw [jpV0_target_toNat]; omega

/-- A store of `bs` at I, for the one or the other of its two instructions. -/
theorem Effect.of_storeAtI {i : Instr} {s t : State} {bs : List Byte} (h : s.storeAtI (encode i) bs = .next t)
    (hi : (∃ x, i = .ldBVx x ∧ bs.length = 3) ∨ ∃ x, i = .ldIVx x ∧ bs.length = x.val + 1) : Effect i s t := by
  rcases State.storeAtI_cases h with ⟨c, a, rfl, -⟩ | ⟨hf, hbytes, hwf⟩
  · exact .raised c a rfl
  · exact .store bs hi hf hbytes hwf

theorem exec_effect {i : Instr} {s t : State} (h : exec i s = .next t) : Effect i s t := by
  cases i
  -- the instructions that can raise
  case ret =>
    simp only [exec, execRet] at h
    split at h
    · exact .raised _ _ h
    · rename_i a htop
      cases h
      exact .ret rfl (List.dropLast_append_getLast? a htop).symm rfl
  case call nnn =>
    simp only [exec, execCall] at h
    split at h
    · exact .raised _ _ h
    · rename_i hroom
      cases h
      exact .call nnn rfl hroom rfl
  case skpVx x | sknpVx x =>
    simp only [exec, execSkpVx, execSknpVx] at h
    split at h
    · exact .raised _ _ h
    · cases h; exact .of_skipIf s _
  case drw x y n =>
    simp only [exec, execDrw] at h
    split at h
    · exact .raised _ _ h
    · cases h; exact .display (.inr ⟨x, y, n, rfl⟩) rfl
  case ldVxI x =>
    simp only [exec, execLdVxI] at h
    split at h
    · exact .raised _ _ h
    · cases h; rw [State.loadRegs_frame]; exact .regs rfl
  case ldBVx x => exact .of_storeAtI h (.inl ⟨x, rfl, rfl⟩)
  case ldIVx x => exact .of_storeAtI h (.inr ⟨x, rfl, s.regsTo_length x⟩)
  -- the jumps and the skips
  case sys nnn => cases h; exact .pc rfl (.inl rfl)
  case jp nnn => cases h; exact .of_jump s (zext16_le nnn)
  case jpV0 nnn => cases h; exact .of_jump s (jpV0_target_le nnn _)
  case seVxKk | sneVxKk | seVxVy | sneVxVy => cases h; exact .of_skipIf s _
  -- the writes of one device
  case cls => cases h; exact .display (.inl rfl) rfl
  case ldI | addIVx | ldFVx => cases h; exact .index rfl
  case ldDtVx | ldStVx => cases h; exact .timers rfl
  case ldVxK x => cases h; exact .wait rfl
  -- the register instructions
  all_goals cases h; exact .regs rfl

/-! ### Completed instructions field by field -/

/-- Nothing but CLS and DRW writes the display. -/
theorem Effect.fb_eq_or {i : Instr} {s t : State} (h : Effect i s t) :
    t.fb = s.fb ∨ i = .cls ∨ ∃ x y n, i = .drw x y n := by
  cases h with
  | raised c a h => cases h; exact .inl rfl
  | display instr _ => exact .inr instr
  | regs h | pc h _ | call _ _ _ h | ret _ _ h | index h | timers h | wait h | store _ _ h _ _ => rw [h]; exact .inl rfl

/-- Nothing but CALL and RET writes the stack. -/
theorem Effect.stack_eq_or {i : Instr} {s t : State} (h : Effect i s t) :
    t.stack = s.stack ∨ (∃ nnn, i = .call nnn ∧ t.stack = s.stack ++ [s.pc]) ∨
      (i = .ret ∧ s.stack = t.stack ++ [t.pc]) := by
  cases h with
  | raised c a h => cases h; exact .inl rfl
  | call nnn instr _ h => rw [h]; exact .inr (.inl ⟨nnn, instr, rfl⟩)
  | ret instr popped _ => exact .inr (.inr ⟨instr, popped⟩)
  | regs h | pc h _ | display _ h | index h | timers h | wait h | store _ _ h _ _ => rw [h]; exact .inl rfl

/-- Nothing but LD B and LD [I] writes memory, and they write at I to I + 2 and at I to I + x. -/
theorem Effect.byteAt_eq_or {i : Instr} {s t : State} (h : Effect i s t) (a : Nat) :
    t.byteAt a = s.byteAt a ∨ (s.i.toNat ≤ a ∧
      ((∃ x, i = .ldBVx x ∧ a < s.i.toNat + 3) ∨ ∃ x, i = .ldIVx x ∧ a < s.i.toNat + x.val + 1)) := by
  cases h with
  | raised c a h => cases h; exact .inl rfl
  | store bs instr h bytes _ =>
    by_cases hin : s.i.toNat ≤ a ∧ a < s.i.toNat + bs.length
    · refine .inr ⟨hin.1, instr.imp ?_ ?_⟩
      · rintro ⟨x, rfl, hlen⟩; exact ⟨x, rfl, by omega⟩
      · rintro ⟨x, rfl, hlen⟩; exact ⟨x, rfl, by omega⟩
    · left
      rw [bytes a]
      split_ifs with hle
      · rw [List.getElem?_eq_none (by omega)]; rfl
      · rfl
  | regs h | pc h _ | call _ _ _ h | ret _ _ h | display _ h | index h | timers h | wait h => rw [h]; exact .inl rfl

end Sys2Proof.Machine
end

section
/-! The whole machine (10_state.md, 60_exceptions.md, 70_reset_and_hazards.md): that every step answers, what a CPU
tick never writes, who writes each device, and the invariant. -/

namespace Sys2Proof.Machine

open Sys2Proof.Claims

/-! ### Every step answers a next state (R251, R258) -/

theorem State.storeAtI_next (s : State) (w : Word16) (bs : List Byte) : ∃ t, s.storeAtI w bs = .next t := by
  unfold State.storeAtI
  split <;> exact ⟨_, rfl⟩

theorem exec_next (i : Instr) (s : State) : ∃ t, exec i s = .next t := by
  cases i
  case ret | call | drw | skpVx | sknpVx | ldVxI =>
    simp only [exec, execRet, execCall, execDrw, execSkpVx, execSknpVx, execLdVxI]
    split <;> exact ⟨_, rfl⟩
  case ldBVx | ldIVx => exact s.storeAtI_next _ _
  all_goals exact ⟨_, rfl⟩

theorem State.fetchExecute_next (s : State) : ∃ t, s.fetchExecute = .next t := by
  unfold State.fetchExecute
  split
  · exact ⟨_, rfl⟩
  · split
    · exact ⟨_, rfl⟩
    · split
      · exact ⟨_, rfl⟩
      · obtain ⟨t, ht⟩ := exec_next _ s.advance
        exact ⟨_, by rw [ht, retireUnlessFaulted_next]⟩

theorem State.cpuTick_next (s : State) : ∃ t, s.cpuTick = .next t := by
  unfold State.cpuTick
  split
  · exact ⟨_, rfl⟩
  · split
    · exact ⟨_, rfl⟩
    · split
      · exact s.fetchExecute_next
      · exact ⟨_, rfl⟩

theorem State.runMove_next (s : State) (m : Move) : ∃ t, s.runMove m = .next t := by
  cases m
  case cpuTick =>
    simp only [State.runMove]
    split_ifs
    · exact s.cpuTick_next
    · exact ⟨_, rfl⟩
  all_goals exact ⟨_, rfl⟩

/-- Settles O20: no meaning and no test of the tick answers anything but a next state. -/
theorem noStepStopsTheMachine : Obligations.NoStepStopsTheMachine :=
  ⟨fun s => by rw [step_of_moveIs rfl]; exact State.runMove_next _ _, exec_next⟩

/-! ### What a CPU tick never writes -/

/-- The fields of the environment and the parameters (R31, R33, R36, R304). -/
structure TickKeeps (s t : State) : Prop where
  cfg : t.cfg = s.cfg
  running : t.running = s.running
  stagedRom : t.stagedRom = s.stagedRom
  key : t.key = s.key
  schedActive : t.schedActive = s.schedActive
  schedule : t.schedule = s.schedule
  moveCount : t.moveCount = s.moveCount

/-- A poll writes registers and the wait alone (R112, R267). -/
theorem State.pollKeyWait_frame (s : State) (r : Reg) :
    s.pollKeyWait r = { s with v := (s.pollKeyWait r).v, future := (s.pollKeyWait r).future } := by
  rcases s.pollKeyWait_cases r with ⟨k, -, h⟩ | ⟨-, h⟩ <;> rw [h]
  rfl

theorem CpuTickCase.keeps {s t : State} (h : CpuTickCase s t) : TickKeeps s t := by
  cases h with
  | polled r _ _ => rw [s.pollKeyWait_frame r]; exact ⟨rfl, rfl, rfl, rfl, rfl, rfl, rfl⟩
  | completed i u _ _ _ _ hk =>
    exact ⟨hk.cfg, hk.running, hk.stagedRom, hk.key, hk.schedActive, hk.schedule, hk.moveCount⟩
  | idle | raised _ _ _ _ _ | refused _ _ => exact ⟨rfl, rfl, rfl, rfl, rfl, rfl, rfl⟩

/-! ### A step by its move (R273) -/

/-- What each move leaves. The moves that are no CPU tick, reset or load write the timers, the keys and the delivery
flag alone. -/
inductive MoveCase (s t : State) : Move → Prop
  | cpu (h : CpuTickCase s t) : MoveCase s t .cpuTick
  | reset (h : t = s.resetCore) : MoveCase s t .reset
  | load (bytes : List Byte) (h : t = s.loadRom bytes) : MoveCase s t (.loadRom bytes)
  | device (m : Move)
      (h : t = { s with dt := t.dt, st := t.st, key := t.key, prev := t.prev, schedActive := t.schedActive }) :
      MoveCase s t m

theorem State.runMove_cases {s t : State} {m : Move} (h : s.runMove m = .next t) : MoveCase s t m := by
  cases m
  case cpuTick => exact .cpu (State.runMove_cpuTick_cases h)
  case reset => cases h; exact .reset rfl
  case loadRom bytes => cases h; exact .load bytes rfl
  case timerTick =>
    simp only [State.runMove] at h
    split_ifs at h <;> cases h <;> exact .device _ rfl
  all_goals cases h; exact .device _ rfl

theorem step_cases {s t : State} (h : step s = .next t) : ∃ m, MoveIs s m ∧ MoveCase (afterMove s) t m := by
  obtain ⟨m, hm, h⟩ := runMove_of_step h
  exact ⟨m, hm, State.runMove_cases h⟩

/-! ### Who writes the marks and the staged program -/

theorem MoveCase.cfg {s t : State} {m : Move} (h : MoveCase s t m) : t.cfg = s.cfg := by
  cases h with
  | cpu h => exact h.keeps.cfg
  | reset h | load _ h | device _ h => exact (congrArg State.cfg h :)

/-- Settles O21: the parameters by the cases of the move, the rest by the lifecycle's own definitions. -/
theorem parametersAndMarksOutliveReset : Obligations.ParametersAndMarksOutliveReset := by
  refine ⟨fun s t h => ?_, fun s t hm h => ?_, fun s t ⟨bytes, hm⟩ h => ?_, fun s t hm h => ?_⟩
  · obtain ⟨m, -, h⟩ := step_cases h
    exact h.cfg
  · rw [step_of_moveIs hm] at h
    cases h
    exact ⟨rfl, rfl, rfl⟩
  · rw [step_of_moveIs hm] at h
    cases h
    exact ⟨rfl, rfl⟩
  · rcases hm with hm | hm | hm
    all_goals
      rw [step_of_moveIs hm] at h
      cases h
      rw [MoveIs] at hm
      exact ⟨rfl, by simp [MoveIs, hm]⟩

/-- Settles O22: the tick's refusal is the one write of the mark. -/
theorem refusalMarkIsSticky : Obligations.RefusalMarkIsSticky := by
  intro s t h
  obtain ⟨m, hm, h⟩ := step_cases h
  have hkept : t.refused = s.refused ∨ (t.refused = true ∧ s.cpuTickNext = true ∧ s.cfg.quirkMode = .maximal) := by
    cases h with
    | cpu h =>
      cases h with
      | refused _ mode => exact .inr ⟨rfl, cpuTickNext_iff.2 hm, mode⟩
      | polled r _ _ => rw [State.pollKeyWait_frame]; exact .inl rfl
      | completed i u _ _ _ _ hk => exact .inl hk.refused
      | idle | raised _ _ _ _ _ => exact .inl rfl
    | reset h | load _ h | device _ h => rw [h]; exact .inl rfl
  rcases hkept with hkept | ⟨hset, hcpu⟩
  · rw [hkept]
    exact ⟨id, fun hf ht => absurd (ht.symm.trans hf) (by decide)⟩
  · exact ⟨fun _ => hset, fun _ _ => hcpu⟩

/-- Settles O23: `loadRom` is the one write of staged_rom. -/
theorem stagedRomWrittenOnlyByLoad : Obligations.StagedRomWrittenOnlyByLoad := by
  intro s t h
  refine ⟨fun bytes hm => ?_, fun hload => ?_⟩
  · rw [step_of_moveIs hm] at h
    cases h
    rfl
  · obtain ⟨m, hm, h⟩ := step_cases h
    cases h with
    | cpu h => exact h.keeps.stagedRom
    | load bytes _ => exact absurd ⟨bytes, hm⟩ hload
    | reset h | device _ h => exact (congrArg State.stagedRom h :)

/-- Settles O11: a faulted core has no tick but the idle one, and the device moves write no field of the program. -/
theorem faultedCoreIsFrozen : Obligations.FaultedCoreIsFrozen := by
  intro s t hf hreset hload h
  obtain ⟨m, hm, h⟩ := step_cases h
  have hnot : ¬ (afterMove s).executes = true := fun he => hf (State.fault_of_executes he)
  cases h with
  | cpu h =>
    cases h with
    | idle => exact ⟨rfl, rfl, fun _ => rfl, rfl, rfl, rfl, rfl, rfl, fun _ => rfl⟩
    | polled r fault _ => exact absurd fault hf
    | raised _ he _ _ _ | refused he _ | completed _ _ he _ _ _ _ => exact absurd he hnot
  | reset _ => exact absurd hm hreset
  | load bytes _ => exact absurd ⟨bytes, hm⟩ hload
  | device _ h => rw [h]; exact ⟨rfl, rfl, fun _ => rfl, rfl, rfl, rfl, rfl, rfl, fun _ => rfl⟩

/-! ### Who writes the display, memory and the stack -/

/-- A field that no device move, no poll, no fault record, no refusal, no retirement and no taking of a move writes. -/
structure ProgramField {α : Type} (f : State → α) : Prop where
  device : ∀ (u : State) dt st key prev act,
    f { u with dt := dt, st := st, key := key, prev := prev, schedActive := act } = f u
  tick : ∀ (u : State) v wait fault refused,
    f { u with v := v, future := wait, fault := fault, refused := refused } = f u
  retire : ∀ u : State, f u.retire = f u
  move : ∀ u : State, f (afterMove u) = f u

theorem programField_fb : ProgramField State.fb :=
  ⟨fun _ _ _ _ _ _ => rfl, fun _ _ _ _ _ => rfl, fun _ => rfl, fun _ => rfl⟩

theorem programField_byteAt (a : Nat) : ProgramField (State.byteAt · a) :=
  ⟨fun _ _ _ _ _ _ => rfl, fun _ _ _ _ _ => rfl, fun _ => rfl, fun _ => rfl⟩

theorem programField_stack : ProgramField State.stack :=
  ⟨fun _ _ _ _ _ _ => rfl, fun _ _ _ _ _ => rfl, fun _ => rfl, fun _ => rfl⟩

/-- Where such a field changes at a CPU tick, an instruction completed and changed it. -/
theorem ProgramField.tick_cases {α : Type} {f : State → α} (hf : ProgramField f) {s t : State} (h : CpuTickCase s t)
    (hne : f t ≠ f s) : s.executes = true ∧
      ∃ i u, fetched s = some i ∧ exec i s.advance = .next u ∧ t = u.retire ∧ f u ≠ f s := by
  cases h with
  | idle => exact absurd rfl hne
  | polled r _ _ => rw [State.pollKeyWait_frame] at hne; exact absurd (hf.tick s _ _ s.fault s.refused) hne
  | raised r _ _ _ _ => exact absurd (hf.tick s s.v s.future _ s.refused) hne
  | refused _ _ => exact absurd (hf.tick s s.v s.future s.fault _) hne
  | completed i u he _ hd hx _ => exact ⟨he, i, u, hd, hx, rfl, hf.retire u ▸ hne⟩

/-- Where such a field changes at a step, the step is a reset, a load, or a completed instruction that changed it. -/
theorem ProgramField.step_cases {α : Type} {f : State → α} (hf : ProgramField f) {s t : State} (h : step s = .next t)
    (hne : f t ≠ f s) : MoveIs s .reset ∨ MoveLoads s ∨ (s.cpuTickNext = true ∧ s.executes = true ∧
      ∃ i u, fetched s = some i ∧ exec i (afterMove s).advance = .next u ∧ t = u.retire ∧ f u ≠ f s) := by
  obtain ⟨m, hm, h⟩ := Machine.step_cases h
  rw [← hf.move s] at hne ⊢
  cases h with
  | reset _ => exact .inl hm
  | load bytes _ => exact .inr (.inl ⟨bytes, hm⟩)
  | device _ h => rw [h, hf.device] at hne; exact absurd rfl hne
  | cpu h => exact .inr (.inr ⟨cpuTickNext_iff.2 hm, hf.tick_cases h hne⟩)

/-- Settles O24: by the one effect that writes the display. -/
theorem displayWrittenOnlyByClsAndDrw : Obligations.DisplayWrittenOnlyByClsAndDrw := by
  intro s t h hne
  refine (programField_fb.step_cases h hne).imp_right (Or.imp_right ?_)
  rintro ⟨hm, he, i, u, hd, hx, rfl, hne⟩
  rcases (exec_effect hx).fb_eq_or with hfb | rfl | ⟨x, y, n, rfl⟩
  · exact absurd hfb hne
  · exact ⟨hm, he, .inl hd⟩
  · exact ⟨hm, he, .inr ⟨x, y, n, hd⟩⟩

/-- Settles O25: by the one effect that writes memory. -/
theorem memoryWrittenOnlyByStores : Obligations.MemoryWrittenOnlyByStores := by
  intro s t a h hne
  refine ((programField_byteAt a).step_cases h hne).imp_right (Or.imp_right ?_)
  rintro ⟨hm, he, i, u, hd, hx, rfl, hne⟩
  rcases (exec_effect hx).byteAt_eq_or a with hbyte | ⟨hle, ⟨x, rfl, hlt⟩ | ⟨x, rfl, hlt⟩⟩
  · exact absurd hbyte hne
  · exact ⟨hm, he, hle, .inl ⟨x, hd, hlt⟩⟩
  · exact ⟨hm, he, hle, .inr ⟨x, hd, hlt⟩⟩

/-- Settles O26: by the two effects that write the stack. -/
theorem stackWrittenOnlyByCallAndRet : Obligations.StackWrittenOnlyByCallAndRet := by
  intro s t h hne
  refine (programField_stack.step_cases h hne).imp_right (Or.imp_right ?_)
  rintro ⟨hm, he, i, u, hd, hx, rfl, hne⟩
  rcases (exec_effect hx).stack_eq_or with hst | ⟨nnn, rfl, hst⟩ | ⟨rfl, hst⟩
  · exact absurd hst hne
  · exact ⟨hm, he, .inl ⟨nnn, hd, hst⟩⟩
  · exact ⟨hm, he, .inr ⟨hd, hst⟩⟩

/-! ### The invariant: what a completed instruction keeps of it (R23, R27, R131, R134) -/

theorem raise_fault_ne_none {s t : State} {c : Fault} {w : Word16} {a : Option Nat} (h : s.raise c w a = .next t) :
    t.fault ≠ none := by
  cases h; simp

/-- "No value of pc that the rules produce exceeds 0x10FE" (R23). -/
theorem Effect.pc_le {i : Instr} {s t : State} (h : Effect i s t) (hf : t.fault = none) (hpc : s.pc.toNat ≤ memSize)
    (hst : ∀ a ∈ s.stack, a.toNat ≤ memSize) : t.pc.toNat ≤ 0x10FE := by
  have hle : s.pc.toNat ≤ 0x10FE := hpc.trans (by decide)
  cases h with
  | raised c a h => exact absurd hf (raise_fault_ne_none h)
  | pc _ target =>
    rcases target with he | he | he
    · rwa [he]
    · rw [he, BitVec.toNat_add]
      simp only [memSize] at hpc
      exact (Nat.mod_le _ _).trans (Nat.add_le_add_right hpc 2 |>.trans (by decide))
    · exact he
  | call nnn _ _ h => rw [h]; exact zext16_le nnn
  | ret _ popped _ => exact (hst _ (by rw [popped]; simp)).trans (by decide)
  | regs h | display _ h | index h | timers h | wait h | store _ _ h _ _ => rw [h]; exact hle

theorem Effect.stack_length_le {i : Instr} {s t : State} (h : Effect i s t) (hs : s.stack.length ≤ stackDepth) :
    t.stack.length ≤ stackDepth := by
  cases h with
  | raised c a h => cases h; exact hs
  | call nnn _ room h => rw [h, List.length_append]; exact Nat.lt_of_le_of_ne hs room
  | ret _ popped _ => rw [popped, List.length_append] at hs; exact Nat.le_of_succ_le hs
  | regs h | pc h _ | display _ h | index h | timers h | wait h | store _ _ h _ _ => rw [h]; exact hs

/-- What the invariant says of a return address (R131, R134). -/
def ReturnAddress (a : Word16) : Prop := a.toNat % 2 = 0 ∧ a.toNat ≤ memSize

theorem Effect.stack_entries {i : Instr} {s t : State} (h : Effect i s t) (hpc : ReturnAddress s.pc)
    (hs : ∀ a ∈ s.stack, ReturnAddress a) : ∀ a ∈ t.stack, ReturnAddress a := by
  intro a ha
  rcases h.stack_eq_or with he | ⟨nnn, -, he⟩ | ⟨-, he⟩
  · exact hs a (he ▸ ha)
  · rw [he, List.mem_append, List.mem_singleton] at ha
    rcases ha with ha | rfl
    · exact hs a ha
    · exact hpc
  · exact hs a (he ▸ List.mem_append_left _ ha)

theorem Effect.mem_wf {i : Instr} {s t : State} (h : Effect i s t) (hs : Memory.wf s.cfg.fontGlyphs s.mem = true) :
    Memory.wf s.cfg.fontGlyphs t.mem = true := by
  cases h with
  | raised c a h => cases h; exact hs
  | store _ _ _ _ wf => exact wf hs
  | regs h | pc h _ | call _ _ _ h | ret _ _ h | display _ h | index h | timers h | wait h => rw [h]; exact hs

/-- pc after the fetch advance from a fetchable address is a return address (R114, R116). -/
theorem returnAddress_advance {s : State} (h : fetchFault s.pc = none) : ReturnAddress s.advance.pc := by
  obtain ⟨heven, hlow⟩ := fetchFault_eq_none_iff.1 h
  have hpc : s.advance.pc.toNat = s.pc.toNat + 2 := by
    rw [State.advance_pc, BitVec.toNat_add]
    exact Nat.mod_eq_of_lt (by simp; omega)
  rw [ReturnAddress, hpc, memSize]
  omega

/-! ### The invariant: every step keeps it -/

/-- The invariant reads nine fields; the wait only where there is a fault. -/
theorem State.Inv.congr {s t : State} (h : s.Inv) (hcfg : t.cfg = s.cfg) (hmem : t.mem = s.mem) (hpc : t.pc = s.pc)
    (hstack : t.stack = s.stack) (hrom : t.stagedRom = s.stagedRom) (hfault : t.fault = s.fault)
    (hwait : t.future = s.future) (hcount : t.cycleCount = s.cycleCount) (hmark : t.refused = s.refused) : t.Inv := by
  obtain ⟨memWf, pcBound, stackBound, stackEntries, stagedBound, faultWf, faultPc, faultNoWait, capKept,
    refusedMode⟩ := h
  constructor <;> simpa only [hcfg, hmem, hpc, hstack, hrom, hfault, hwait, hcount, hmark]

theorem Inv_afterMove {s : State} (h : s.Inv) : (afterMove s).Inv :=
  h.congr rfl rfl rfl rfl rfl rfl rfl rfl rfl

/-- Reset keeps the invariant: the image of a ROM in bounds is canonical (R301, R303). -/
theorem State.Inv.resetCore {s : State} (h : s.Inv) : s.resetCore.Inv where
  memWf := wf_installImage _ _ h.stagedBound
  pcBound := by simp
  stackBound := by simp
  stackEntries := by simp
  stagedBound := h.stagedBound
  faultWf := by simp
  faultPc := by simp
  faultNoWait := by simp
  capKept := by simp
  refusedMode := h.refusedMode

/-- A load is the reset of the state with at most 3584 bytes staged (R302). -/
theorem State.Inv.loadRom {s : State} (h : s.Inv) (bytes : List Byte) : (s.loadRom bytes).Inv := by
  have hstaged : ({ s with stagedRom := some (bytes.take romMax) } : State).Inv :=
    { h with stagedBound := fun b hb => by cases hb; exact List.length_take_le _ _ }
  exact hstaged.resetCore.congr rfl rfl rfl rfl rfl rfl rfl rfl rfl

/-- An instruction that completes keeps the invariant, and its retirement does not pass the cap (R113, R118). -/
theorem State.Inv.completed {s u : State} {i : Instr} (h : s.Inv) (he : s.executes = true)
    (hfetch : fetchFault s.pc = none) (hx : Effect i s.advance u) (hk : KeepsControl s.advance u) : u.retire.Inv := by
  obtain ⟨-, hf, -, -, hcap⟩ := s.executes_iff.1 he
  have hra := returnAddress_advance hfetch
  have hfu : u.fault = none := hk.fault.trans hf
  have hcfg : u.cfg = s.cfg := hk.cfg
  constructor
  case memWf => rw [State.retire_cfg, hcfg]; exact hx.mem_wf h.memWf
  case pcBound => exact hx.pc_le hfu hra.2 fun a ha => (h.stackEntries a ha).2
  case stackBound => exact hx.stack_length_le h.stackBound
  case stackEntries => exact hx.stack_entries hra h.stackEntries
  case stagedBound => exact fun b hb => h.stagedBound b (hk.stagedRom ▸ hb)
  case capKept =>
    intro c hc
    have hlt := State.capHit_eq_false_iff.1 hcap c (hcfg ▸ hc)
    rw [State.retire_cycleCount, hk.cycleCount]
    exact hlt
  case refusedMode =>
    intro hr
    rw [State.retire_cfg, hcfg]
    exact h.refusedMode (hk.refused ▸ hr)
  -- the three clauses about a fault record: there is none
  all_goals simp [hfu]

theorem State.Inv.cpuTick {s t : State} (h : s.Inv) (ht : CpuTickCase s t) : t.Inv := by
  cases ht with
  | idle => exact h
  | polled r hf _ =>
    rw [State.pollKeyWait_frame]
    exact { h with faultNoWait := fun hr => by rw [hf] at hr; cases hr }
  | raised r he hpc hwf _ =>
    obtain ⟨-, -, hw, -, -⟩ := s.executes_iff.1 he
    exact { h with
      faultWf := fun q hq => by cases hq; exact hwf
      faultPc := fun q hq => by cases hq; exact hpc
      faultNoWait := fun _ => hw }
  | refused _ hq => exact { h with refusedMode := fun _ => hq }
  | completed i u he hfetch _ hx hk => exact h.completed he hfetch (exec_effect hx) hk

/-- Settles O19: by the cases of the move, and for a completed instruction by its effect. -/
theorem stepKeepsInvariant : Obligations.StepKeepsInvariant := by
  intro s t hs h
  obtain ⟨m, -, h⟩ := step_cases h
  have hs := Inv_afterMove hs
  cases h with
  | cpu h => exact hs.cpuTick h
  | reset h => rw [h]; exact hs.resetCore
  | load bytes h => rw [h]; exact hs.loadRom bytes
  | device _ h => rw [h]; exact hs.congr rfl rfl rfl rfl rfl rfl rfl rfl rfl

/-- Settles O18: nothing is listed, stacked, staged or recorded. -/
theorem resetMeetsInvariant : Obligations.ResetMeetsInvariant where
  memWf := rfl
  pcBound := by decide
  stackBound := by decide
  stackEntries := by simp [State.reset]
  stagedBound := by simp [State.reset]
  faultWf := by simp [State.reset]
  faultPc := by simp [State.reset]
  faultNoWait := by simp [State.reset]
  capKept := by simp [State.reset]
  refusedMode := by simp [State.reset]

end Sys2Proof.Machine
end

section
/-! What no instruction reads (10_state.md R26, R28, R29, R31, R38), and with it runs under an order of moves
(60_exceptions.md R273): taking moves off a schedule does not change what they do. -/

namespace Sys2Proof.Machine

open Sys2Proof.Claims

/-! ### The fields no instruction reads -/

/-- The state `s` with the fields of `u` that no instruction reads. -/
def State.withUnread (s u : State) : State :=
  { s with
    st := u.st, running := u.running, cycleCount := u.cycleCount, stagedRom := u.stagedRom, prev := u.prev
    schedActive := u.schedActive, refused := u.refused, schedule := u.schedule, moveCount := u.moveCount }

/-- ST after an instruction that finds `b` there: only LD ST writes it (R205). -/
def soundAfter : Instr → State → Byte → Byte
  | .ldStVx x, s, _ => s.reg x
  | _, _, b => b

theorem soundAfter_of_ne {i : Instr} (h : ∀ x, i ≠ .ldStVx x) (s : State) (b : Byte) : soundAfter i s b = b := by
  cases i
  case ldStVx x => exact absurd rfl (h x)
  all_goals rfl

theorem State.readBytes_withUnread (s u : State) (a n : Nat) : (s.withUnread u).readBytes a n = s.readBytes a n := by
  induction n generalizing a with
  | zero => rfl
  | succ n ih => rw [State.readBytes, State.readBytes, ih]; rfl

theorem State.writeBytes_withUnread (s u : State) (a : Nat) (bs : List Byte) :
    (s.withUnread u).writeBytes a bs = (s.writeBytes a bs).map (·.withUnread u) := by
  induction bs generalizing s a with
  | nil => rfl
  | cons b bs ih =>
    by_cases ha : a < memSize
    · simp only [State.writeBytes, State.memWrite, if_pos ha]
      exact ih (s.setByte a b) (a + 1)
    · simp only [State.writeBytes, State.memWrite, if_neg ha]
      rfl

theorem State.storeAtI_withUnread {s t : State} (u : State) {w : Word16} {bs : List Byte}
    (h : s.storeAtI w bs = .next t) : (s.withUnread u).storeAtI w bs = .next (t.withUnread u) := by
  have hw := s.writeBytes_withUnread u (s.dataAddr 0) bs
  unfold State.storeAtI at h ⊢
  rw [show (s.withUnread u).dataAddr 0 = s.dataAddr 0 from rfl, hw]
  cases hs : s.writeBytes (s.dataAddr 0) bs <;> rw [hs] at h <;> cases h <;> rfl

theorem State.loadRegs_withUnread (s u : State) (r : Nat) (bs : List Byte) :
    (s.withUnread u).loadRegs r bs = (s.loadRegs r bs).withUnread u := by
  induction bs generalizing s r with
  | nil => rfl
  | cons b bs ih => exact ih (s.setReg (Fin.ofNat 16 r) b) (r + 1)

theorem State.skipIf_withUnread (s u : State) (c : Bool) : (s.withUnread u).skipIf c = (s.skipIf c).withUnread u := by
  cases c <;> rfl

/-- An instruction does the same whatever those fields hold, and leaves them as it finds them, ST apart. -/
theorem exec_withUnread {i : Instr} {s t : State} (u : State) (h : exec i s = .next t) :
    exec i (s.withUnread u) = .next { t.withUnread u with st := soundAfter i s u.st } := by
  cases i
  case ret =>
    simp only [exec, execRet] at h ⊢
    rw [show (s.withUnread u).top = s.top from rfl]
    cases htop : s.top <;> simp only [htop] at h <;> cases h <;> rfl
  case call nnn =>
    simp only [exec, execCall] at h ⊢
    rw [show (s.withUnread u).stack = s.stack from rfl]
    split_ifs at h ⊢ <;> cases h <;> rfl
  case seVxKk | sneVxKk | seVxVy | sneVxVy => cases h; exact congrArg _ (s.skipIf_withUnread u _)
  case skpVx x | sknpVx x =>
    simp only [exec, execSkpVx, execSknpVx] at h ⊢
    rw [show (s.withUnread u).reg x = s.reg x from rfl]
    cases hk : keyNamed (s.reg x) <;> simp only [hk] at h <;> cases h
    · rfl
    · exact congrArg _ (s.skipIf_withUnread u _)
  case drw x y n =>
    simp only [exec, execDrw] at h ⊢
    rw [State.readBytes_withUnread, show (s.withUnread u).dataAddr 0 = s.dataAddr 0 from rfl]
    cases hr : s.readBytes (s.dataAddr 0) n.toNat <;> simp only [hr] at h <;> cases h <;> rfl
  case ldVxI x =>
    simp only [exec, execLdVxI] at h ⊢
    rw [State.readBytes_withUnread, show (s.withUnread u).dataAddr 0 = s.dataAddr 0 from rfl]
    cases hr : s.readBytes (s.dataAddr 0) (x.val + 1) <;> simp only [hr] at h <;> cases h
    · rfl
    · exact congrArg _ (s.loadRegs_withUnread u 0 _)
  case ldBVx | ldIVx => exact State.storeAtI_withUnread (t := t) u h
  all_goals cases h; rfl

/-- So an instruction leaves its own state's values in those fields, ST apart. -/
theorem exec_keepsUnread {i : Instr} {s t : State} (h : exec i s = .next t) :
    t = { t.withUnread s with st := soundAfter i s s.st } :=
  Host.Outcome.next.inj (h.symm.trans (exec_withUnread s h))

/-- Settles O27: ST is one of the fields no instruction reads. -/
theorem noInstructionReadsSoundTimer : Obligations.NoInstructionReadsSoundTimer := by
  intro i s t b h
  refine ⟨soundAfter i s b, ?_, fun hi => soundAfter_of_ne hi s b⟩
  have hx := exec_withUnread { s with st := b } h
  rw [exec_keepsUnread h] at hx ⊢
  exact hx

/-- Settles O28: the six control fields are among the fields no instruction reads. -/
theorem noInstructionReadsControlState : Obligations.NoInstructionReadsControlState := by
  intro i s t run act ref n p rom h
  have hx := exec_withUnread { s with
    running := run, cycleCount := n, schedActive := act, prev := p, stagedRom := rom, refused := ref } h
  rw [exec_keepsUnread h] at hx ⊢
  exact ⟨rfl, rfl, rfl, rfl, rfl, rfl, hx⟩

/-! ### The schedule is data of the environment alone (log 1) -/

/-- The state with other moves to come. -/
def State.rescheduled (s : State) (l : List Move) (k : Nat) : State := { s with schedule := l, moveCount := k }

theorem exec_rescheduled {i : Instr} {s t : State} (l : List Move) (k : Nat) (h : exec i s = .next t) :
    exec i (s.rescheduled l k) = .next (t.rescheduled l k) := by
  have hx := exec_withUnread (s.rescheduled l k) h
  rw [exec_keepsUnread h] at hx ⊢
  exact hx

theorem State.pollKeyWait_rescheduled (s : State) (r : Reg) (l : List Move) (k : Nat) :
    (s.rescheduled l k).pollKeyWait r = (s.pollKeyWait r).rescheduled l k := by
  unfold State.pollKeyWait
  rw [show (s.rescheduled l k).keyReleased = s.keyReleased from rfl]
  cases s.keyReleased <;> rfl

theorem State.fetchExecute_rescheduled {s t : State} (l : List Move) (k : Nat) (h : s.fetchExecute = .next t) :
    (s.rescheduled l k).fetchExecute = .next (t.rescheduled l k) := by
  rcases s.fetchExecute_cases h with
    ⟨c, a, hf, rfl⟩ | ⟨hf, hd, rfl⟩ | ⟨hf, ⟨i, hd⟩, hq, rfl⟩ | ⟨i, u, hf, hd, hq, hx, rfl⟩
  · exact State.fetchExecute_of_fetchFault (s := s.rescheduled l k) hf
  · exact State.fetchExecute_of_illegal (s := s.rescheduled l k) hf hd
  · exact State.fetchExecute_of_maximal (s := s.rescheduled l k) hf hd hq
  · rw [State.fetchExecute_of_standard (s := s.rescheduled l k) hf hd hq]
    rw [show (s.rescheduled l k).advance = s.advance.rescheduled l k from rfl, exec_rescheduled l k hx]
    rw [retireUnlessFaulted_next, show (u.rescheduled l k).fault = u.fault from rfl]
    cases u.fault <;> rfl

theorem State.cpuTick_rescheduled {s t : State} (l : List Move) (k : Nat) (h : s.cpuTick = .next t) :
    (s.rescheduled l k).cpuTick = .next (t.rescheduled l k) := by
  unfold State.cpuTick at h ⊢
  rw [show (s.rescheduled l k).fault = s.fault from rfl, show (s.rescheduled l k).future = s.future from rfl,
    show (s.rescheduled l k).running = s.running from rfl, show (s.rescheduled l k).capHit = s.capHit from rfl]
  cases hf : s.fault with
  | some r => rw [hf] at h; cases h; rfl
  | none =>
    rw [hf] at h
    cases hw : s.future with
    | pending r => rw [hw] at h; cases h; exact congrArg Host.Outcome.next (s.pollKeyWait_rescheduled r l k)
    | inactive =>
      rw [hw] at h
      cases hg : s.running && !s.capHit with
      | false => simp only [hg] at h; cases h; rfl
      | true => simp only [hg] at h; exact State.fetchExecute_rescheduled l k h

theorem State.runMove_rescheduled {s t : State} {m : Move} (l : List Move) (k : Nat) (h : s.runMove m = .next t) :
    (s.rescheduled l k).runMove m = .next (t.rescheduled l k) := by
  cases m
  case cpuTick =>
    simp only [State.runMove] at h ⊢
    rw [show (s.rescheduled l k).schedActive = s.schedActive from rfl]
    cases ha : s.schedActive <;> rw [ha] at h
    · cases h; rfl
    · exact State.cpuTick_rescheduled l k h
  case timerTick =>
    simp only [State.runMove] at h ⊢
    rw [show (s.rescheduled l k).schedActive = s.schedActive from rfl]
    split_ifs at h ⊢ <;> cases h <;> rfl
  all_goals cases h; rfl

theorem State.runMove_eq_moved (s : State) (m : Move) : s.runMove m = .next (s.moved m) := by
  obtain ⟨t, ht⟩ := s.runMove_next m
  rw [ht, State.moved_eq ht]

theorem State.moved_rescheduled (s : State) (m : Move) (l : List Move) (k : Nat) :
    (s.rescheduled l k).moved m = (s.moved m).rescheduled l k :=
  State.moved_eq (State.runMove_rescheduled l k (s.runMove_eq_moved m))

/-! ### Runs (R273) -/

theorem State.under_rescheduled (s : State) (env : Nat → Move) (l : List Move) (k n : Nat) :
    (s.rescheduled l k).under env n = (s.under env n).rescheduled l k := by
  induction n with
  | zero => rfl
  | succ n ih => rw [State.under_succ, State.under_succ, ih, State.moved_rescheduled]

/-- Moves leave the count of free moves alone: taking one is the step's. -/
theorem State.under_moveCount (s : State) (env : Nat → Move) (n : Nat) : (s.under env n).moveCount = s.moveCount :=
  (congrArg State.moveCount (s.under_rescheduled env s.schedule s.moveCount n) :)

/-- A step is its move, with the move taken. -/
theorem step_eq_moved (s : State) : step s = .next ((s.moved (s.moveAt 0)).rescheduled s.schedule.tail
    (if s.schedule = [] then s.moveCount + 1 else s.moveCount)) := by
  rw [step_eq, State.nextMove_fst]
  exact State.runMove_rescheduled _ _ (s.runMove_eq_moved _)

theorem steps_succ_last {s t u : State} {n : Nat} (hs : steps n s = some t) (ht : step t = .next u) :
    steps (n + 1) s = some u := by
  induction n generalizing s with
  | zero => cases hs; rw [steps_succ 0 ht, steps_zero]
  | succ n ih =>
    rw [steps_succ n (step_eq_moved s)] at hs
    rw [steps_succ (n + 1) (step_eq_moved s)]
    exact ih hs

/-- The moves to come once n are taken. -/
theorem State.steps_eq (s : State) (n : Nat) : steps n s = some ((s.under s.moveAt n).rescheduled (s.schedule.drop n)
    (s.moveCount + (n - s.schedule.length))) := by
  induction n with
  | zero => simp [State.rescheduled]
  | succ n ih =>
    rw [steps_succ_last ih (step_eq_moved _), State.moved_rescheduled, State.under_succ]
    have hmove : ((s.under s.moveAt n).rescheduled (s.schedule.drop n)
        (s.moveCount + (n - s.schedule.length))).moveAt 0 = s.moveAt n := by
      simp [State.moveAt, State.rescheduled]
    have hcount : (if s.schedule.drop n = [] then s.moveCount + (n - s.schedule.length) + 1
        else s.moveCount + (n - s.schedule.length)) = s.moveCount + (n + 1 - s.schedule.length) := by
      simp only [List.drop_eq_nil_iff]
      split_ifs <;> omega
    rw [hmove, ← hcount, ← List.tail_drop]
    rfl

/-- Settles O58: steps go through the moves to come, and an order of moves put on the schedule is those moves. -/
theorem stepsFollowTheEnvironment : Obligations.StepsFollowTheEnvironment := by
  refine ⟨State.steps_eq, fun env s n => ?_⟩
  have hrun := (s.rescheduled ((List.range n).map env) s.moveCount).steps_eq n
  have henv : ∀ k, k < n → (s.rescheduled ((List.range n).map env) s.moveCount).moveAt k = env k := fun k hk => by
    simp [State.moveAt, State.rescheduled, hk]
  rw [State.under_congr _ henv, State.under_rescheduled] at hrun
  rw [show ({ s with schedule := (List.range n).map env } : State) =
    s.rescheduled ((List.range n).map env) s.moveCount from rfl, hrun]
  simp [State.rescheduled, ← s.under_moveCount env n]

/-! ### Timers of a faulted core (R255, R260) -/

theorem countDown_toNat (b : Byte) : (countDown b).toNat = b.toNat - 1 := by
  unfold countDown
  split_ifs with h
  · rw [h]; rfl
  · have hb : b.toNat ≠ 0 := fun e => h (BitVec.eq_of_toNat_eq e)
    have := b.isLt
    rw [BitVec.toNat_sub]
    simp
    omega

theorem State.tone_eq_true_iff {s : State} : s.tone = true ↔ s.st ≠ 0 := bne_iff_ne

/-- Both timers are at most `k`. -/
def State.TimersLe (s : State) (k : Nat) : Prop := s.dt.toNat ≤ k ∧ s.st.toNat ≤ k

/-- A move that leaves the core faulted and the ticks delivered raises no timer, and a timer tick lowers both. -/
theorem State.TimersLe.moved {s : State} {k : Nat} {m : Move} (h : s.TimersLe k) (hf : s.fault ≠ none)
    (ha : s.schedActive = true) (hf' : (s.moved m).fault ≠ none) :
    (s.moved m).TimersLe k ∧ (m = .timerTick → (s.moved m).TimersLe (k - 1)) := by
  cases m
  case cpuTick => rw [State.moved_cpuTick_faulted hf]; exact ⟨h, by simp⟩
  case timerTick =>
    have hlow : (s.moved .timerTick).TimersLe (k - 1) := by
      rw [State.moved_timerTick, if_pos ha]
      exact ⟨(countDown_toNat s.dt).trans_le (Nat.sub_le_sub_right h.1 1),
        (countDown_toNat s.st).trans_le (Nat.sub_le_sub_right h.2 1)⟩
    exact ⟨⟨hlow.1.trans (Nat.sub_le k 1), hlow.2.trans (Nat.sub_le k 1)⟩, fun _ => hlow⟩
  case loadRom bytes => exact absurd rfl hf'
  case reset => exact absurd rfl hf'
  all_goals exact ⟨h, by simp⟩

/-- Settles O59: the timers never rise, and by weak fairness there is always one more timer tick to lower them. -/
theorem timersRunOutWhileFaulted : Obligations.TimersRunOutWhileFaulted := by
  intro env s hfair hcore
  have hnext : ∀ k n, (s.under env n).TimersLe k → (s.under env (n + 1)).TimersLe k ∧
      (env n = .timerTick → (s.under env (n + 1)).TimersLe (k - 1)) := fun k n h =>
    h.moved (hcore n).1 (hcore n).2 (hcore (n + 1)).1
  have hstay : ∀ k n, (s.under env n).TimersLe k → ∀ m, n ≤ m → (s.under env m).TimersLe k := fun k n h m hm =>
    Nat.le_induction h (fun m _ ih => (hnext k m ih).1) m hm
  have hlower : ∀ j, ∃ n, (s.under env n).TimersLe (255 - j) := by
    intro j
    induction j with
    | zero => exact ⟨0, Nat.le_of_lt_succ s.dt.isLt, Nat.le_of_lt_succ s.st.isLt⟩
    | succ j ih =>
      obtain ⟨n, hn⟩ := ih
      obtain ⟨-, m, hnm, hm⟩ := hfair n fun m _ => (hcore m).2
      exact ⟨m + 1, (hnext _ m (hstay _ n hn m hnm)).2 hm⟩
  obtain ⟨n, hn⟩ := hlower 255
  refine ⟨n, fun m hm => ?_⟩
  obtain ⟨hdt, hst⟩ := hstay 0 n hn m hm
  have hst : (s.under env m).st = 0 := BitVec.eq_of_toNat_eq (Nat.le_zero.1 hst)
  exact ⟨BitVec.eq_of_toNat_eq (Nat.le_zero.1 hdt), hst, by simp [State.tone, hst]⟩

end Sys2Proof.Machine
end

section
/-! The instructions that can raise and those that write a device (41_control_flow.md to 45_index_memory.md): the stack,
the keypad and the timers, the random draw, the sprite, the index register and the transfers. -/

namespace Sys2Proof.Machine

open Sys2Proof.Claims

/-! ### The stack (R131, R134) -/

theorem execCall_of_room {nnn : BitVec 12} {s : State} (h : s.stack.length < 16) :
    exec (.call nnn) s = .next { s with pc := zext16 nnn, stack := s.stack ++ [s.pc] } :=
  if_neg (Nat.ne_of_lt h)

theorem execCall_of_full {nnn : BitVec 12} {s : State} (h : s.stack.length = 16) :
    exec (.call nnn) s = .next (raised s .stackOverflow (.call nnn) none) :=
  if_pos h

theorem execRet_of_append {s : State} {below : List Word16} {a : Word16} (h : s.stack = below ++ [a]) :
    exec .ret s = .next { s with pc := a, stack := below } := by
  have htop : s.top = some a := by rw [State.top, h, List.getLast?_concat]
  simp only [exec, execRet, htop, State.dropTop, h, List.dropLast_concat]

theorem execRet_of_nil {s : State} (h : s.stack = []) : exec .ret s = .next (raised s .stackUnderflow .ret none) := by
  have htop : s.top = none := by rw [State.top, h, List.getLast?_nil]
  simp only [exec, execRet, htop]
  rfl

/-- Settles O30: the two meanings on the side of their tests that completes. -/
theorem callPushesAndRetPops : Obligations.CallPushesAndRetPops :=
  ⟨fun nnn _ h => ⟨_, execCall_of_room h, rfl, zext16_toNat nnn, fun _ => rfl, fun _ => rfl, rfl⟩,
    fun _ _ _ h => ⟨_, execRet_of_append h, rfl, rfl, fun _ => rfl, fun _ => rfl, rfl⟩⟩

/-- Settles O31: the two meanings on the other side. -/
theorem stackFaultsRaise : Obligations.StackFaultsRaise :=
  ⟨fun _ _ => execCall_of_full, fun _ => execRet_of_nil⟩

/-- Settles O32: CALL leaves its return address on top of the stack it found. -/
theorem retUndoesCall : Obligations.RetUndoesCall :=
  fun _ _ h => ⟨_, execCall_of_room h, fun _ hu => ⟨_, execRet_of_append hu, rfl, rfl⟩⟩

/-! ### Keypad, timers and the random draw (R161, R200 to R205) -/

theorem keyNamed_of_toNat_eq {b : Byte} {k : Key} (h : b.toNat = k.val) : keyNamed b = some k := by
  rw [keyNamed, dif_pos (h ▸ k.isLt)]
  exact congrArg some (Fin.ext h)

theorem keyNamed_of_gt {b : Byte} (h : 15 < b.toNat) : keyNamed b = none := dif_neg (by omega)

/-- Settles O34: by whether Vx names a key. -/
theorem keySkips : Obligations.KeySkips := by
  intro x s
  refine ⟨fun k hk => ?_, fun hx => ?_⟩
  · have hk := keyNamed_of_toNat_eq hk
    exact ⟨skips_of_exec (by simp only [exec, execSkpVx, hk]) Iff.rfl,
      skips_of_exec (c := !s.keyAt k) (by simp only [exec, execSknpVx, hk]) (by simp)⟩
  · have hk := keyNamed_of_gt hx
    exact ⟨by simp only [exec, execSkpVx, hk]; rfl, by simp only [exec, execSknpVx, hk]; rfl⟩

/-- Settles O45: LD Vx, DT is `setReg`; the other two write one timer field. -/
theorem timerRegisterMoves : Obligations.TimerRegisterMoves := by
  intro x s
  refine ⟨⟨?_, _, rfl, s.reg_setReg_self x _, onlyRegs_setReg s x _⟩,
    ⟨?_, _, rfl, rfl, fun _ => rfl, fun _ => rfl, rfl⟩,
    ⟨?_, _, rfl, rfl, State.tone_eq_true_iff, fun _ => rfl, fun _ => rfl, rfl⟩⟩
  -- what is left are the three encodings (R85)
  all_goals simp [decode_of_op_eq_fifteen, decodeGroupF]

/-- Settles O46: the wait is the one write. -/
theorem keyWaitIsRegistered : Obligations.KeyWaitIsRegistered :=
  fun x _ => ⟨by simp [decode_of_op_eq_fifteen, decodeGroupF], _, rfl, rfl, fun _ => rfl, fun _ => rfl, rfl⟩

/-- Settles O41: the write is `setReg` of the masked draw, after the draw is counted. -/
theorem randomByteIsMasked : Obligations.RandomByteIsMasked := by
  intro x kk s
  have hx : ({ s with rndCount := s.rndCount + 1 }.setReg x (Config.rnd s.rndCount &&& kk)).reg x =
      Config.rnd s.rndCount &&& kk := State.reg_setReg_self _ x _
  refine ⟨_, rfl, rfl, fun b => by rw [hx, BitVec.getLsbD_and], fun hk => by rw [hx, hk]; exact BitVec.and_zero,
    fun hk => by rw [hx, hk]; exact BitVec.and_allOnes, fun r hr => ?_, fun _ => rfl, rfl⟩
  rw [State.reg_setReg, if_neg hr]
  rfl

/-! ### Bytes read at I (R226) -/

/-- The `n` bytes from I on. -/
def State.bytesAtI (s : State) (n : Nat) : List Byte := (List.range n).map fun r => s.byteAt (s.i.toNat + r)

theorem State.bytesAtI_length (s : State) (n : Nat) : (s.bytesAtI n).length = n := by simp [State.bytesAtI]

theorem State.bytesAtI_getElem?_iff {s : State} {n r : Nat} {b : Byte} :
    (s.bytesAtI n)[r]? = some b ↔ r < n ∧ s.byteAt (s.i.toNat + r) = b := by
  by_cases h : r < n <;> simp [State.bytesAtI, h]

theorem State.readBytes_dataAddr_ok {s : State} {n : Nat} (h : n = 0 ∨ s.i.toNat + n ≤ 4096) :
    s.readBytes (s.dataAddr 0) n = .ok (s.bytesAtI n) :=
  s.readBytes_ok _ n h

/-- The reads of a run that passes the top answer the lowest address out of range (R252). -/
theorem State.readBytes_dataAddr_error {s : State} {n : Nat} (hn : n ≠ 0) (h : 4096 < s.i.toNat + n) :
    s.readBytes (s.dataAddr 0) n = .error (max s.i.toNat 4096) :=
  s.readBytes_error _ n hn h

/-! ### The sprite (R181 to R184) -/

/-- What DRW draws: the bytes at I, at (Vx, Vy). -/
def State.drawn (s : State) (x y : Reg) (n : BitVec 4) : Blit :=
  drawSprite (s.bytesAtI n.toNat) (s.reg x).toNat (s.reg y).toNat s.fb

theorem execDrw_of_inRange {x y : Reg} {n : BitVec 4} {s : State} (h : n = 0 ∨ s.i.toNat + n.toNat ≤ 4096) :
    exec (.drw x y n) s = .next ({ s with fb := (s.drawn x y n).fb }.setFlag (s.drawn x y n).hit) := by
  have hr := State.readBytes_dataAddr_ok (n := n.toNat) (h.imp_left fun h => by rw [h]; rfl)
  simp only [exec, execDrw, hr]
  rfl

theorem mem_spriteCols {c : Nat} : c ∈ spriteCols ↔ c < 8 := by
  simp only [spriteCols, List.mem_cons, List.not_mem_nil, or_false]
  omega

/-- The rows read at I cover exactly the cells of the sprite. -/
theorem rowsCover_bytesAtI_iff (s : State) (x y : Reg) (n : BitVec 4) (px : Fin 64) (py : Fin 32) :
    rowsCover (s.reg x).toNat (s.reg y).toNat (s.bytesAtI n.toNat) 0 px py ↔ SpriteCovers s x y n px py := by
  constructor
  · rintro ⟨r, b, hr, rfl, c, hc, hbit, rfl⟩
    obtain ⟨hrn, rfl⟩ := State.bytesAtI_getElem?_iff.1 hr
    rw [Nat.zero_add]
    exact ⟨r, hrn, c, mem_spriteCols.1 hc, hbit, rfl, rfl⟩
  · rintro ⟨r, hrn, c, hc, hbit, hx, hy⟩
    refine ⟨r, _, State.bytesAtI_getElem?_iff.2 ⟨hrn, rfl⟩, ?_, c, mem_spriteCols.2 hc, hbit, Fin.ext hx⟩
    rw [Nat.zero_add]
    exact Fin.ext hy

theorem State.drawn_draws (s : State) (x y : Reg) (n : BitVec 4) :
    Draws { fb := s.fb, hit := false } (s.drawn x y n) (SpriteCovers s x y n) := by
  have hlen : (s.bytesAtI n.toNat).length ≤ 32 := by
    rw [State.bytesAtI_length]
    exact Nat.le_of_lt (n.isLt.trans (by decide))
  have hcov : rowsCover (s.reg x).toNat (s.reg y).toNat (s.bytesAtI n.toNat) 0 = SpriteCovers s x y n :=
    funext₂ fun px py => propext (rowsCover_bytesAtI_iff s x y n px py)
  rw [← hcov]
  exact drawSprite_draws _ _ _ s.fb hlen

/-- Settles O43: the blitter draws the covered cells of the rows read at I, and its collision bit is the flag. -/
theorem drwXorsTheSprite : Obligations.DrwXorsTheSprite := by
  intro x y n s h
  have hdraws := s.drawn_draws x y n
  have hhit : (s.drawn x y n).hit = true ↔ ∃ px py, s.fb.cell px py = true ∧ SpriteCovers s x y n px py := by
    simpa using hdraws.hit
  refine ⟨_, execDrw_of_inRange h, hdraws.cells, ?_, ?_, fun r hr => ?_, fun _ => rfl, rfl⟩
  · rw [State.reg_setFlag, if_pos rfl]
    split_ifs
    · exact .inr rfl
    · exact .inl rfl
  · rw [State.reg_setFlag, if_pos rfl, ← hhit]
    cases (s.drawn x y n).hit <;> decide
  · rw [State.reg_setFlag, if_neg hr]
    rfl

/-- Settles O44: the reads answer the lowest address out of range, and nothing is drawn. -/
theorem drwOutOfRangeRaises : Obligations.DrwOutOfRangeRaises := by
  intro x y n s hn h
  have hn : n.toNat ≠ 0 := fun e => hn (BitVec.eq_of_toNat_eq e)
  simp only [exec, execDrw, State.readBytes_dataAddr_error hn h]
  rfl

/-! ### The index register (R220 to R222) -/

/-- Settles O49: the three values of I; only ADD I wraps. -/
theorem indexWrites : Obligations.IndexWrites := by
  intro nnn x s
  have hx := (s.reg x).isLt
  refine ⟨⟨?_, _, rfl, zext16_toNat nnn, fun _ => rfl, fun _ => rfl, rfl⟩,
    ⟨?_, _, rfl, ?addI, fun _ => rfl, fun _ => rfl, rfl⟩, ⟨?_, _, rfl, ?ldF, fun _ => rfl, fun _ => rfl, rfl⟩⟩
  case addI => rw [trunc16_natCast, BitVec.toNat_ofNat]
  case ldF =>
    rw [trunc16_natCast, BitVec.toNat_ofNat]
    exact Nat.mod_eq_of_lt (by rw [fontBase]; omega)
  · simp [decode_of_op_ne_zero, decodeByOp]
  all_goals simp [decode_of_op_eq_fifteen, decodeGroupF]

/-! ### Transfers (R223 to R225) -/

/-- A store of bytes at I that stays in memory: the bytes in their places, and the frame. -/
theorem State.storeAtI_ok {s : State} {w : Word16} {bs : List Byte} (h : s.i.toNat + bs.length ≤ 4096) :
    ∃ t, s.storeAtI w bs = .next t ∧ (∀ k b, bs[k]? = some b → t.byteAt (s.i.toNat + k) = b) ∧
      OnlyBytes s t s.i.toNat bs.length := by
  obtain ⟨t, ht, hframe, hread, -⟩ := s.writeBytes_ok s.i.toNat bs (.inr h)
  refine ⟨t, ?_, fun k b hk => ?_, fun c hc => ?_, fun r => ?_, hframe⟩
  · rw [State.storeAtI, show s.dataAddr 0 = s.i.toNat from rfl, ht]
  · rw [hread, if_pos (Nat.le_add_right _ _), Nat.add_sub_cancel_left, hk]
    rfl
  · rw [hread]
    split_ifs with hle
    · rw [List.getElem?_eq_none (by omega)]; rfl
    · rfl
  · rw [hframe]; rfl

theorem State.storeAtI_error {s : State} {i : Instr} {bs : List Byte} (hn : bs ≠ [])
    (h : 4096 < s.i.toNat + bs.length) :
    s.storeAtI (encode i) bs = .next (raised s .memoryRange i (some (max s.i.toNat 4096))) := by
  rw [State.storeAtI, s.writeBytes_error (s.dataAddr 0) bs hn h]
  rfl

/-- A decimal digit of a byte is a byte. -/
theorem digit_toNat {d : Nat} (h : d < 256) : (BitVec.ofNat 8 d).toNat = d := Nat.mod_eq_of_lt h

/-- Settles O50: the digits are the three bytes stored. -/
theorem bcdStoresThreeDigits : Obligations.BcdStoresThreeDigits := by
  intro x s h
  have hx := (s.reg x).isLt
  obtain ⟨t, ht, hbytes, hframe⟩ := State.storeAtI_ok (w := encode (.ldBVx x)) (bs := bcdDigits (s.reg x)) h
  refine ⟨t, ht, ?_, ?_, ?_, hframe⟩
  · rw [← digit_toNat (d := (s.reg x).toNat / 100) (by omega)]
    exact congrArg _ (hbytes 0 _ rfl)
  · rw [← digit_toNat (d := (s.reg x).toNat / 10 % 10) (by omega)]
    exact congrArg _ (hbytes 1 _ rfl)
  · rw [← digit_toNat (d := (s.reg x).toNat % 10) (by omega)]
    exact congrArg _ (hbytes 2 _ rfl)

/-- Settles O51: byte r of the run stored is Vr. -/
theorem blockStoreWritesRegisters : Obligations.BlockStoreWritesRegisters := by
  intro x s h
  obtain ⟨t, ht, hbytes, hframe⟩ := State.storeAtI_ok (s := s) (w := encode (.ldIVx x)) (bs := s.regsTo x)
    (by rw [State.regsTo_length]; omega)
  rw [State.regsTo_length] at hframe
  exact ⟨t, ht, fun r hr => hbytes r.val _ (s.regsTo_getElem? x r hr), hframe⟩

theorem execLdVxI_of_inRange {x : Reg} {s : State} (h : s.i.toNat + x.val < 4096) :
    exec (.ldVxI x) s = .next (s.loadRegs 0 (s.bytesAtI (x.val + 1))) := by
  have hr := State.readBytes_dataAddr_ok (n := x.val + 1) (.inr h)
  simp only [exec, execLdVxI, hr]

/-- Settles O52: the bytes read at I go to V0 on, and stop at Vx. -/
theorem blockLoadReadsRegisters : Obligations.BlockLoadReadsRegisters := by
  intro x s h
  have hframe := s.loadRegs_frame 0 (s.bytesAtI (x.val + 1))
  have hreg : ∀ q : Reg, (s.loadRegs 0 (s.bytesAtI (x.val + 1))).reg q =
      ((s.bytesAtI (x.val + 1))[q.val]?).getD (s.reg q) := fun q => by
    rw [s.reg_loadRegs 0 _ (by rw [State.bytesAtI_length]; omega), if_pos (Nat.zero_le _), Nat.sub_zero]
  refine ⟨_, execLdVxI_of_inRange h, fun r hr => ?_, fun r hr => ?_, fun a => by rw [hframe]; rfl, hframe⟩
  · rw [hreg, State.bytesAtI_getElem?_iff.2 ⟨Nat.lt_succ_of_le hr, rfl⟩]
    rfl
  · rw [hreg, List.getElem?_eq_none (by rw [State.bytesAtI_length]; exact hr)]
    rfl

/-- Settles O53: the run of each of the three passes the top. -/
theorem transfersOutOfRangeRaise : Obligations.TransfersOutOfRangeRaise := by
  intro x s
  refine ⟨fun h => State.storeAtI_error (List.cons_ne_nil _ _) h, fun h => ⟨?_, ?_⟩⟩
  · have hlen := s.regsTo_length x
    exact State.storeAtI_error (List.ne_nil_of_length_eq_add_one hlen) (by rwa [hlen])
  · simp only [exec, execLdVxI, State.readBytes_dataAddr_error (Nat.succ_ne_zero x.val) h]
    rfl

end Sys2Proof.Machine
end

section
/-! The timers' and the keypad's moves (60_exceptions.md R260 to R264), reset and load (70_reset_and_hazards.md R301 to
R304), and the end of a run (R319). -/

namespace Sys2Proof.Machine

open Sys2Proof.Claims

/-! ### Timer ticks and key events -/

/-- Settles O47: a delivered timer tick counts both timers down. -/
theorem timerTickCountsDown : Obligations.TimerTickCountsDown := by
  intro s hm ha
  refine ⟨(afterMove s).timerTick, ?_, countDown_toNat s.dt, countDown_toNat s.st, ?_, rfl⟩
  · rw [step_of_moveIs hm, State.runMove, if_pos (show (afterMove s).schedActive = true from ha)]
  · rw [State.tone_eq_true_iff]
    exact not_congr BitVec.toNat_inj.symm

/-- The keypad after an event of key k: the level, and the level before it in the snapshot (R263, R264). -/
def State.keySet (s : State) (k : Key) (down : Bool) : State :=
  { s with prev := s.prev.set k.val (s.keyAt k), key := s.key.set k.val down }

theorem getElem_set_key (v : Vector Bool 16) (k j : Key) (b : Bool) :
    (v.set k.val b)[j.val] = if j = k then b else v[j.val] := by
  rw [Vector.getElem_set]
  simp [Fin.ext_iff, eq_comm]

theorem State.keyAt_keySet (s : State) (k j : Key) (down : Bool) :
    (s.keySet k down).keyAt j = if j = k then down else s.keyAt j := getElem_set_key s.key k j down

theorem State.prevAt_keySet (s : State) (k j : Key) (down : Bool) :
    (s.keySet k down).prevAt j = if j = k then s.keyAt k else s.prevAt j := getElem_set_key s.prev k j (s.keyAt k)

/-- Settles O48: key down and key up are one event with its level. -/
theorem keyEventsSnapshotThenSet : Obligations.KeyEventsSnapshotThenSet := by
  intro s k down hm
  refine ⟨(afterMove s).keySet k down, ?_, ?_, ?_, fun j hj => ⟨?_, ?_⟩, rfl⟩
  · rw [step_of_moveIs hm]
    cases down <;> rfl
  · rw [State.keyAt_keySet, if_pos rfl]
  · rw [State.prevAt_keySet, if_pos rfl]
    rfl
  · rw [State.keyAt_keySet, if_neg hj]
    rfl
  · rw [State.prevAt_keySet, if_neg hj]
    rfl

/-! ### Reset and load -/

/-- Settles O54: field by field. -/
theorem resetRestartsTheCore : Obligations.ResetRestartsTheCore := by
  intro s hm
  refine ⟨(afterMove s).resetCore, step_of_moveIs hm, ?regs, rfl, rfl, rfl, rfl, rfl, rfl, Framebuffer.cell_off, ?keys,
    rfl, rfl, ?running, ?active, rfl, rfl, rfl⟩
  case regs => exact fun r => by simp [State.reg]
  case keys => exact fun k => by simp [State.keyAt, State.prevAt]
  case running => exact Option.isSome_iff_ne_none
  case active =>
    rw [State.resetCore_schedActive, Bool.or_eq_true, Option.isSome_iff_ne_none]
    rfl

/-- What memory reads after a reset: the staged ROM from 0x200 on, and the unlisted contents elsewhere (R303). -/
theorem byteAt_resetCore {s : State} {rom : List Byte} (h : s.stagedRom = some rom ∨ s.stagedRom = none ∧ rom = [])
    (a : Nat) : s.resetCore.byteAt a = if 0x200 ≤ a then (rom[a - 0x200]?).getD (Memory.unlisted s.cfg.fontGlyphs a)
      else Memory.unlisted s.cfg.fontGlyphs a := by
  rw [State.byteAt, State.resetCore_mem, State.resetCore_cfg]
  rcases h with h | ⟨h, rfl⟩ <;> rw [h, installImage]
  · exact Memory.read_image _ _ _ _
  · simp

theorem Memory.unlisted_font (g : Font) {j : Nat} (h : j < 80) : unlisted g (0x050 + j) = g[j] := by
  unfold unlisted
  rw [dif_pos (by simp only [fontBase, fontEnd]; omega)]
  simp [fontBase]

theorem Memory.unlisted_zero (g : Font) {a : Nat} (h : a < 0x050 ∨ 0x0A0 ≤ a) : unlisted g a = 0 := by
  unfold unlisted
  rw [dif_neg (by simp only [fontBase, fontEnd]; omega)]

/-- Settles O55: the image's ranges do not overlap, since the font ends below 0x200. -/
theorem resetInstallsTheImage : Obligations.ResetInstallsTheImage := by
  intro s t rom hm hrom hlen h
  rw [step_of_moveIs hm] at h
  cases h
  have hread := byteAt_resetCore (s := afterMove s) hrom
  refine ⟨fun j b hj => ?_, fun j hj => ?_, fun a ha => ?_, ?_⟩
  · rw [hread, if_pos (Nat.le_add_right _ _), Nat.add_sub_cancel_left, hj]
    rfl
  · rw [hread, if_neg (by omega), Memory.unlisted_font _ hj]
    rfl
  · rw [hread, Memory.unlisted_zero _ (by omega)]
    split_ifs
    · rw [List.getElem?_eq_none (by omega)]
      rfl
    · rfl
  · refine wf_installImage _ _ fun b hb => ?_
    rcases hrom with hs | ⟨hs, -⟩
    · cases hs.symm.trans hb
      exact hlen
    · cases hs.symm.trans hb

/-- Settles O56: both are the reset of one state; that a ROM is staged starts the core and the ticks. -/
theorem loadIsResetOfTheNewRom : Obligations.LoadIsResetOfTheNewRom := by
  intro s bytes hm
  refine ⟨(afterMove s).loadRom bytes, step_of_moveIs hm, rfl, rfl, rfl, ?_⟩
  change Host.Outcome.next { (afterMove s).loadRom bytes with schedActive := (afterMove s).schedActive || true } = _
  rw [Bool.or_true]
  rfl

/-! ### The end of a run (R319) -/

/-- The word that R319 (d) asks for at an address below the top is the jump to that address (R132). -/
theorem jumpWord_eq {p : Word16} (h : p.toNat < 4096) : 0x1000#16 ||| p = wordNnn 0x1 (p.setWidth 12) := by
  apply BitVec.eq_of_toNat_eq
  rw [BitVec.toNat_or, wordNnn, BitVec.toNat_append, BitVec.toNat_setWidth, Nat.mod_eq_of_lt h]
  rfl

theorem jumpWord_toNat {p : Word16} (h : p.toNat < 4096) : (0x1000#16 ||| p).toNat = 0x1000 + p.toNat := by
  rw [BitVec.toNat_or]
  exact (Nat.two_pow_add_eq_or_of_lt (i := 12) h 1).symm

theorem decode_jumpWord {p : Word16} (h : p.toNat < 4096) : decode (0x1000#16 ||| p) = some (.jp (p.setWidth 12)) := by
  rw [jumpWord_eq h]
  exact decodeOfEncode (.jp _) rfl

theorem zext16_setWidth {p : Word16} (h : p.toNat < 4096) : zext16 (p.setWidth 12) = p := by
  apply BitVec.eq_of_toNat_eq
  rw [zext16_toNat, BitVec.toNat_setWidth, Nat.mod_eq_of_lt h]

/-- The conditions of R319, with the jump as a word. -/
theorem State.endOfRun_iff {s : State} : s.endOfRun = true ↔
    s.fault = none ∧ s.refused = false ∧ s.future = .inactive ∧ s.running = true ∧
    s.pc.toNat % 2 = 0 ∧ s.pc.toNat + 1 < 4096 ∧ s.fetchWord s.pc.toNat = 0x1000#16 ||| s.pc ∧
    ∀ c, s.cfg.cycleCap = some c → s.cycleCount < c := by
  rw [← State.capHit_eq_false_iff]
  simp [State.endOfRun, and_assoc]

/-- The jump as a word is the jump as two bytes (R56). -/
theorem State.fetchWord_eq_jumpWord_iff {s : State} (h : s.pc.toNat < 4096) :
    s.fetchWord s.pc.toNat = 0x1000#16 ||| s.pc ↔
      256 * (s.byteAt s.pc.toNat).toNat + (s.byteAt (s.pc.toNat + 1)).toNat = 0x1000 + s.pc.toNat := by
  rw [← BitVec.toNat_inj, State.fetchWord_toNat, jumpWord_toNat h]

/-- The step that executes the self-jump counts it and clears the snapshot. -/
theorem step_of_endOfRun {s : State} (h : s.endOfRun = true) (hm : s.cpuTickNext = true) (ha : s.schedActive = true)
    (hq : s.cfg.quirkMode = .standard) :
    step s = .next { afterMove s with cycleCount := s.cycleCount + 1, prev := Vector.replicate 16 false } := by
  obtain ⟨hf, -, hw, hr, heven, hlow, hword, hcap⟩ := State.endOfRun_iff.1 h
  have hpc : s.pc.toNat < 4096 := Nat.lt_of_succ_lt hlow
  have hd : fetched s = some (.jp (s.pc.setWidth 12)) := by rw [fetched, hword, decode_jumpWord hpc]
  have hx : exec (.jp (s.pc.setWidth 12)) { afterMove s with pc := s.pc + 2 } = .next (afterMove s) := by
    rw [exec, execJp, zext16_setWidth hpc]
    rfl
  have he : s.executes = true := s.executes_iff.2 ⟨ha, hf, hw, hr, State.capHit_eq_false_iff.2 hcap⟩
  rw [stepRunsDecodedInstruction.2 s _ _ hm he hq heven hlow hd hx, if_pos (show (afterMove s).fault = none from hf)]
  rfl

/-- Settles O57: the self-jump leaves every condition of R319 as it was but the cap's. -/
theorem endOfRunRepeatsItself : Obligations.EndOfRunRepeatsItself := by
  refine ⟨fun s => ?_, fun s h hm ha hq => ⟨_, step_of_endOfRun h hm ha hq, rfl, ?_⟩⟩
  · rw [State.endOfRun_iff]
    refine and_congr_right' (and_congr_right' (and_congr_right' (and_congr_right' (and_congr_right' ?_))))
    exact and_congr_right fun hlow => and_congr_left' (State.fetchWord_eq_jumpWord_iff (Nat.lt_of_succ_lt hlow))
  · obtain ⟨hf, hr, hw, hrun, heven, hlow, hword, -⟩ := State.endOfRun_iff.1 h
    rw [State.endOfRun_iff]
    exact ⟨fun ⟨_, _, _, _, _, _, _, hcap⟩ => hcap, fun hcap => ⟨hf, hr, hw, hrun, heven, hlow, hword, hcap⟩⟩

end Sys2Proof.Machine
end
